-- ==== Sys2Proof/Word.lean ====
section
/-! DEFINITION. Word: the widths of R10 (`u8`, `u32`). -/

namespace Sys2Proof

/-- A byte (`u8`, R10). -/
abbrev Byte := BitVec 8

/-- A 32-bit unsigned value (`u32`, R10): request address and size (R9), clock sample (R134). -/
abbrev Word := BitVec 32

end Sys2Proof
end

