-- ==== Sys2Proof/Config.lean ====
section
/-! DEFINITION. Config: the implementation parameters of R8, the environment's choices (draws), and the free values. -/

namespace Sys2Proof

/-- The parameters of R8. `CAPACITY` and `ABYTES` are derived (Machine/Params.lean), as is which values are legal.
The defaults are R8's where it gives one (PRESUMED by the spec itself, log 2), and the vectors' configuration of
95_test_vectors.md where R8 gives none (DESIGN CHOICE, log 1). -/
structure Config where
  /-- `ADDR_BITS` -/
  addrBits : Nat := 16
  /-- `PAGE_SIZE` -/
  pageSize : Nat := 32
  /-- `TIMEOUT_MS` -/
  timeoutMs : Nat := 5
  /-- `ITER_CEILING` -/
  iterCeiling : Nat := 100
  /-- `ERASE_VALUE` -/
  eraseValue : Byte := 0xFF
  /-- `ERASE_MAX` -/
  eraseMax : Nat := 256
  /-- `OPC_READ` -/
  opcRead : Byte := 0x03
  /-- `OPC_WRITE` -/
  opcWrite : Byte := 0x02
  /-- `OPC_WREN` -/
  opcWren : Byte := 0x06
  /-- `OPC_WRDI` -/
  opcWrdi : Byte := 0x04
  /-- `OPC_RDSR` -/
  opcRdsr : Byte := 0x05
  /-- `OPC_WRSR` -/
  opcWrsr : Byte := 0x01
  /-- `OPC_A8_BIT`, 0 to 7 -/
  a8Bit : Fin 8 := 3
  /-- `DEVICE_BP_NEEDS_WP` -/
  bpNeedsWp : Bool := true
  deriving DecidableEq, Repr

/-- How the transport answers a call (R135): `Ok`, `Error`, or not (yet) at all (U8). -/
inductive Reply where
  | ok
  | error
  | unanswered
  deriving DecidableEq, Repr, Inhabited

/-- Everything the environment chooses around ONE interaction (R5: the block chooses none of it). -/
structure Draw where
  /-- The transport's answer to the call (R135, U17, U8). A clock read is answered unless `unanswered`; that it too may stay
  unanswered is a DESIGN CHOICE (log 31: U8 and R135 speak of transport calls). -/
  reply : Reply
  /-- `none`: a `Receive` gives the device model's bytes. `some l`: it gives the bytes `l` of an unconstrained
  oracle in their place (20_memory.md section 8; U17; log 6). -/
  rx : Option (List Byte)
  /-- The clock's answer (R134, U16). -/
  now : Word
  /-- The device's running write cycle ends before this interaction (R54, U14). -/
  cycleEnds : Bool
  /-- The platform moves the WP pin to this level before this interaction (R32, U23). -/
  wpPin : Option Bool
  /-- The reserved status bits 6:4 as the device returns them (R26, U11). -/
  reserved : BitVec 3
  /-- A WREN or WRDI that arrives while WIP = 1 is accepted (R52, U13). -/
  latchInCycle : Bool
  /-- A WRSR that arrives while WIP = 1 is accepted (R57, R144, U13; log 13). -/
  wrsrInCycle : Bool
  /-- WPEN = 1 with WP asserted blocks a WRSR (R57, U22). -/
  wrsrBlocked : Bool
  /-- A call that answered `Error` nevertheless reached the device (D25). -/
  delivered : Bool
  /-- Which payload bytes of a failing sub-transfer are committed, in order (R39, U10). -/
  landed : List Bool
  /-- The chip-select line is asserted after an `Error`, or after a reset in the middle of a command (R32, U9, R140). -/
  csAfter : Bool
  deriving DecidableEq, Repr, Inhabited

/-- FREE VALUE. The environment's choice number `k`, where the state does not fix it (log 5). No body: nothing is known
of it. -/
opaque Config.environment : Nat → Draw

/-- FREE VALUE. Byte `i` of an answer the spec leaves unspecified, at choice number `k` (U12, log 34). -/
opaque Config.freeByte : Nat → Nat → Byte

/-- FREE VALUE. The device array's content at an address that nothing has written (R51, U15, log 8). -/
opaque Config.powerUpByte : Nat → Byte

end Sys2Proof
end

