-- ==== Sys2Proof/Machine/Params.lean ====
section
/-! DEFINITION. Params: what is derived from the parameters of R8, and which configurations are legal. -/

namespace Sys2Proof.Machine

/-- `CAPACITY = 2^ADDR_BITS` (R8, R41, C5). -/
def capacity (c : Config) : Nat := 2 ^ c.addrBits

/-- `ABYTES` (R74): the address bytes of a READ or WRITE frame. -/
def abytes (c : Config) : Nat :=
  if c.addrBits ≤ 9 then 1 else if c.addrBits ≤ 16 then 2 else 3

/-- The six opcodes of R61. -/
def opcodes (c : Config) : List Byte :=
  [c.opcRead, c.opcWrite, c.opcWren, c.opcWrdi, c.opcRdsr, c.opcWrsr]

/-- The legal values of R8, with R61's: bit `OPC_A8_BIT` of `OPC_READ` and `OPC_WRITE` is 0 and the six opcodes are
pairwise distinct (log 3). -/
def configLegal (c : Config) : Bool :=
  decide (8 ≤ c.addrBits) && decide (c.addrBits ≤ 24)
    && decide (1 ≤ c.pageSize) && decide (c.pageSize ≤ capacity c)
    && decide (1 ≤ c.timeoutMs) && decide (c.timeoutMs ≤ c.iterCeiling)
    && decide (c.iterCeiling ≤ 2 ^ 32 - 2) && decide (1 ≤ c.eraseMax)
    && !c.opcRead.getLsbD c.a8Bit && !c.opcWrite.getLsbD c.a8Bit
    && decide (opcodes c).Nodup

end Sys2Proof.Machine
end

