-- ==== Sys2Proof/Syntax.lean ====
section
/-! DEFINITION. Syntax: one constructor of `Instr` per row of spec/opcode_table.json, and the encoded forms they have on the
two interfaces (30_encoding.md): the host's request record and a command's bytes on the transport. -/

namespace Sys2Proof

/-- The protection levels of R69. -/
inductive Level where
  | none
  | upperQuarter
  | upperHalf
  | all
  deriving DecidableEq, Repr

/-- The instructions: the SPI commands the block emits (R78 to R87) and the host requests (R112 to R118, R71). -/
inductive Instr where
  /-- `READ.a1` (R78): 9-bit address (bit 8 is carried by the opcode byte), `m` bytes to receive. -/
  | readA1 (a : BitVec 9) (m : Nat)
  /-- `READ.a2` (R79) -/
  | readA2 (a : BitVec 16) (m : Nat)
  /-- `READ.a3` (R80) -/
  | readA3 (a : BitVec 24) (m : Nat)
  /-- `WRITE.a1` (R81): 9-bit address, payload. -/
  | writeA1 (a : BitVec 9) (p : List Byte)
  /-- `WRITE.a2` (R82) -/
  | writeA2 (a : BitVec 16) (p : List Byte)
  /-- `WRITE.a3` (R83) -/
  | writeA3 (a : BitVec 24) (p : List Byte)
  /-- `WREN` (R84) -/
  | wren
  /-- `WRDI` (R85) -/
  | wrdi
  /-- `RDSR` (R86) -/
  | rdsr
  /-- `WRSR` (R87): the status byte to write. -/
  | wrsr (v : Byte)
  /-- `INIT` (R112) -/
  | init
  /-- `DEINIT` (R113) -/
  | deinit
  /-- `IS_INIT` (R114) -/
  | isInit
  /-- `WRITE` (R115) -/
  | write (addr size : Word) (data : List Byte)
  /-- `READ` (R116) -/
  | read (addr size : Word)
  /-- `ERASE` (R117) -/
  | erase (addr size : Word)
  /-- `SET_PROT` (R118) -/
  | setProt (level : Level)
  /-- `RESERVED_OP7` (R71) -/
  | reservedOp7
  deriving DecidableEq, Repr

/-- The host request record of R67. -/
structure Request where
  op : BitVec 3
  addr : Word
  size : Word
  level : BitVec 2
  data : List Byte
  deriving DecidableEq, Repr

/-- The bytes of one command transaction between chip-select assertion and deassertion (R58, R65): those the block
sends, the frame first, and how many it receives after them. -/
structure Wire where
  sent : List Byte
  recv : Nat
  deriving DecidableEq, Repr

/-- An encoded instruction on the interface it belongs to. -/
inductive Encoded where
  | request (r : Request)
  | command (w : Wire)
  deriving DecidableEq, Repr

/-- Why an encoded form is no instruction. -/
inductive DecodeError where
  /-- No byte was sent. -/
  | noOpcode
  /-- The opcode byte is none of R61's for a command of this shape. -/
  | unknownOpcode
  /-- Fewer address bytes than `ABYTES` (R65, R74). -/
  | truncatedAddress
  /-- A READ or WRITE frame with no data phase (R60). -/
  | emptyDataPhase
  /-- A command that both sends a payload and receives bytes. -/
  | mixedDataPhase
  /-- A `WRITE` request whose data length is not its size (R67, U19). -/
  | dataLength
  deriving DecidableEq, Repr

end Sys2Proof
end

