-- ==== Sys2Proof/WellFormed.lean ====
section
/-! DEFINITION. WellFormed: which terms of `Instr` the spec calls well formed, whatever the configuration. -/

namespace Sys2Proof

/-- `WRITE` has `len(data) = size` (R67, R115); a READ command receives at least one byte (R78) and a WRITE command sends
at least one (R81). Every other combination of operands is encodable (R71). -/
def Instr.wellFormed : Instr → Bool
  | .readA1 _ m | .readA2 _ m | .readA3 _ m => decide (1 ≤ m)
  | .writeA1 _ p | .writeA2 _ p | .writeA3 _ p => decide (1 ≤ p.length)
  | .write _ size data => decide (data.length = size.toNat)
  | .wren | .wrdi | .rdsr | .wrsr _ => true
  | .init | .deinit | .isInit | .read _ _ | .erase _ _ | .setProt _ | .reservedOp7 => true

end Sys2Proof
end

