-- ==== Sys2Proof/Decode.lean ====
section
/-! DEFINITION. Decode: the framer (R62, R63, R75), the decoders of the two interfaces (R64, R67), rejecting by name, and the
encoder written from the same tables. -/

namespace Sys2Proof

open Sys2Proof.Machine (abytes)

/-- Byte `i` of an address, byte 0 the least significant (R63). -/
def addrByte {n : Nat} (a : BitVec n) (i : Nat) : Byte := a.extractLsb' (8 * i) 8

/-- The single opcode bit that carries address bit 8 (R62). -/
def a8Mask (c : Config) : Byte := 1#8 <<< c.a8Bit.val

/-- Byte 0 of a `CA1` frame (R62): the opcode with bit `OPC_A8_BIT` replaced by address bit 8. -/
def foldA8 (c : Config) (opc : Byte) (a8 : Bool) : Byte :=
  (opc &&& ~~~(a8Mask c)) ||| ((BitVec.ofBool a8).setWidth 8 <<< c.a8Bit.val)

/-- The frame of format `CA1` (R60, R62). -/
def frameA1 (c : Config) (opc : Byte) (a : BitVec 9) : List Byte :=
  [foldA8 c opc (a.getLsbD 8), addrByte a 0]

/-- The frame of format `CA2` (R60, R63). -/
def frameA2 (opc : Byte) (a : BitVec 16) : List Byte := [opc, addrByte a 1, addrByte a 0]

/-- The frame of format `CA3` (R60, R63). -/
def frameA3 (opc : Byte) (a : BitVec 24) : List Byte :=
  [opc, addrByte a 2, addrByte a 1, addrByte a 0]

/-- `assemble(OPC, a)` (R75, R76): a pure function that drops the address bits the format has no room for. -/
def assemble (c : Config) (opc : Byte) (a : Word) : List Byte :=
  if abytes c = 1 then frameA1 c opc (a.setWidth 9)
  else if abytes c = 2 then frameA2 opc (a.setWidth 16)
  else frameA3 opc (a.setWidth 24)

/-- The codes of R69. -/
def levelCode : Level → BitVec 2
  | .none => 0
  | .upperQuarter => 1
  | .upperHalf => 2
  | .all => 3

/-- All four codes are legal (R69). -/
def levelOfCode (v : BitVec 2) : Level :=
  match v.toNat with
  | 0 => .none
  | 1 => .upperQuarter
  | 2 => .upperHalf
  | _ => .all

/-- The host request record read as an instruction (R67). Fields an operation does not use are ignored. The one ill-formed
record is a `WRITE` whose data length is not its size (U19). -/
def decodeRequest (r : Request) : Except DecodeError Instr :=
  match r.op.toNat with
  | 0 => .ok .init
  | 1 => .ok .deinit
  | 2 => .ok .isInit
  | 3 => if r.data.length = r.size.toNat then .ok (.write r.addr r.size r.data) else .error .dataLength
  | 4 => .ok (.read r.addr r.size)
  | 5 => .ok (.erase r.addr r.size)
  | 6 => .ok (.setProt (levelOfCode r.level))
  | _ => .ok .reservedOp7

/-- A frame whose opcode is `opc` and whose address is already read, followed by the sent bytes `p` and `m` received
bytes: READ or WRITE by R64. -/
def classify (c : Config) (opc : Byte) (p : List Byte) (m : Nat) (rd : Nat → Instr) (wr : List Byte → Instr) :
    Except DecodeError Instr :=
  match p, m with
  | [], 0 => if opc = c.opcRead ∨ opc = c.opcWrite then .error .emptyDataPhase else .error .unknownOpcode
  | [], m + 1 => if opc = c.opcRead then .ok (rd (m + 1)) else .error .unknownOpcode
  | b :: p, 0 => if opc = c.opcWrite then .ok (wr (b :: p)) else .error .unknownOpcode
  | _ :: _, _ + 1 => .error .mixedDataPhase

/-- A READ or WRITE command, its first byte `op` and the bytes sent after it (R64). -/
def decodeAddressed (c : Config) (op : Byte) (rest : List Byte) (m : Nat) : Except DecodeError Instr :=
  match abytes c, rest with
  | 1, a0 :: p =>
    let a : BitVec 9 := BitVec.ofBool (op.getLsbD c.a8Bit) ++ a0
    classify c (op &&& ~~~(a8Mask c)) p m (.readA1 a) (.writeA1 a)
  | 2, a1 :: a0 :: p =>
    let a : BitVec 16 := a1 ++ a0
    classify c op p m (.readA2 a) (.writeA2 a)
  | 3, a2 :: a1 :: a0 :: p =>
    let a : BitVec 24 := a2 ++ a1 ++ a0
    classify c op p m (.readA3 a) (.writeA3 a)
  | _, _ => .error .truncatedAddress

/-- The bytes of a command transaction read as a command, the device's view (R60, R64). The formats are told apart by how
many bytes are sent and received, then by the opcode; total on any bytes. -/
def decodeWire (c : Config) (w : Wire) : Except DecodeError Instr :=
  match w.sent, w.recv with
  | [], _ => .error .noOpcode
  | [op], 0 => if op = c.opcWren then .ok .wren else if op = c.opcWrdi then .ok .wrdi else .error .unknownOpcode
  | [op], 1 => if op = c.opcRdsr then .ok .rdsr else .error .unknownOpcode
  | [op, v], 0 => if op = c.opcWrsr then .ok (.wrsr v) else .error .unknownOpcode
  | op :: rest, m => decodeAddressed c op rest m

/-- The decoder. -/
def decode (c : Config) : Encoded → Except DecodeError Instr
  | .request r => decodeRequest r
  | .command w => decodeWire c w

/-- A request record with nothing in the fields the operation does not use (R67). -/
def bareRequest (op : BitVec 3) : Request := { op := op, addr := 0, size := 0, level := 0, data := [] }

/-- The encoder: R60 to R63 for commands, R67 for requests. -/
def encode (c : Config) : Instr → Encoded
  | .readA1 a m => .command ⟨frameA1 c c.opcRead a, m⟩
  | .readA2 a m => .command ⟨frameA2 c.opcRead a, m⟩
  | .readA3 a m => .command ⟨frameA3 c.opcRead a, m⟩
  | .writeA1 a p => .command ⟨frameA1 c c.opcWrite a ++ p, 0⟩
  | .writeA2 a p => .command ⟨frameA2 c.opcWrite a ++ p, 0⟩
  | .writeA3 a p => .command ⟨frameA3 c.opcWrite a ++ p, 0⟩
  | .wren => .command ⟨[c.opcWren], 0⟩
  | .wrdi => .command ⟨[c.opcWrdi], 0⟩
  | .rdsr => .command ⟨[c.opcRdsr], 1⟩
  | .wrsr v => .command ⟨[c.opcWrsr, v], 0⟩
  | .init => .request (bareRequest 0)
  | .deinit => .request (bareRequest 1)
  | .isInit => .request (bareRequest 2)
  | .write addr size data => .request { bareRequest 3 with addr := addr, size := size, data := data }
  | .read addr size => .request { bareRequest 4 with addr := addr, size := size }
  | .erase addr size => .request { bareRequest 5 with addr := addr, size := size }
  | .setProt level => .request { bareRequest 6 with level := levelCode level }
  | .reservedOp7 => .request (bareRequest 7)

/-- Whether the configuration has the format an instruction is written in (the table's "applies" column, R60, R74). -/
def formatApplies (c : Config) : Instr → Bool
  | .readA1 _ _ | .writeA1 _ _ => decide (abytes c = 1)
  | .readA2 _ _ | .writeA2 _ _ => decide (abytes c = 2)
  | .readA3 _ _ | .writeA3 _ _ => decide (abytes c = 3)
  | .wren | .wrdi | .rdsr | .wrsr _ => true
  | .init | .deinit | .isInit | .write _ _ _ | .read _ _ | .erase _ _ | .setProt _ | .reservedOp7 => true

/-- The configuration a word of the opcode table is read under: R8's defaults, and an address width that has a format of
`nbits` bits where the word is a READ or WRITE frame (log 21). -/
def tableConfig (nbits w : Nat) : Config :=
  if nbits ≤ 8 then { addrBits := if w < 8 then 16 else 9 }
  else if nbits ≤ 16 then { addrBits := 9 }
  else if nbits ≤ 24 then { addrBits := 16 }
  else { addrBits := 24 }

/-- The first `k` bytes of a table word, byte 0 the least significant (the table's numbering). -/
def tableBytes (w : Nat) : Nat → List Byte
  | 0 => []
  | k + 1 => BitVec.ofNat 8 w :: tableBytes (w / 256) k

/-- A table word laid out on the interface it belongs to (log 21). A word of one byte below 8 is a request record's `op`
with every other field 0. Any other word is a command: the bytes it sends, and after a READ or WRITE frame the
shortest data phase (one byte received, or one zero byte sent). -/
def tableEncoded (nbits w : Nat) : Encoded :=
  let c := tableConfig nbits w
  let op : Byte := BitVec.ofNat 8 w
  if nbits ≤ 8 ∧ w < 8 then .request (bareRequest (BitVec.ofNat 3 w))
  else if op = c.opcWren ∨ op = c.opcWrdi then .command ⟨tableBytes w 1, 0⟩
  else if op = c.opcRdsr then .command ⟨tableBytes w 1, 1⟩
  else if op = c.opcWrsr then .command ⟨tableBytes w 2, 0⟩
  else if op &&& ~~~(a8Mask c) = c.opcRead then .command ⟨tableBytes w (1 + abytes c), 1⟩
  else .command ⟨tableBytes w (1 + abytes c) ++ [0], 0⟩

/-- The instruction the decoder reads from a word of spec/opcode_table.json; none where it refuses. -/
def decodeTableWord (nbits w : Nat) : Option Instr :=
  match decode (tableConfig nbits w) (tableEncoded nbits w) with
  | .ok i => some i
  | .error _ => none

end Sys2Proof
end

