-- ==== Sys2Proof/Machine/State.lean ====
section
/-! DEFINITION. State: everything the spec gives the block (R13 to R19), the environment it describes (R32, R51), and the
model's own fields; the state after reset (R33, R139); the reasons a step can stop. -/

namespace Sys2Proof.Machine

/-! ### The transport and the clock -/

/-- Chip-select modes (R66): `stop` is the spec's `END`. -/
inductive CsMode where
  | none
  | stop
  | start
  | both
  deriving DecidableEq, Repr

/-- One interaction as the block issues it (R11). -/
inductive Call where
  | transportInit
  | transmit (bytes : List Byte) (cs : CsMode)
  | receive (n : Nat) (cs : CsMode)
  | now
  deriving DecidableEq, Repr

/-- The answer to an interaction (R11): `Ok` with the received bytes, `Error`, or a clock sample. -/
inductive Answer where
  | ok (bytes : List Byte)
  | error
  | time (t : Word)
  deriving DecidableEq, Repr

/-- A line of a transcript (R72): a call with its answer. -/
structure Interaction where
  call : Call
  answer : Answer
  deriving DecidableEq, Repr

/-! ### The device (R51) -/

/-- Bytes at addresses, addresses strictly rising; see `Memory.wf` in Machine/Ops.lean. -/
abbrev Memory := List Host.Cell

/-- The pending write-cycle record (R51, R54): what the running cycle will commit. -/
structure Cycle where
  /-- The array bytes, in the order they are written (R55). -/
  writes : List (Nat × Byte)
  /-- BP and WPEN, when the cycle is a status write's (R57). -/
  status : Option (BitVec 2 × Bool)
  deriving DecidableEq, Repr

/-- The device reference model's state (R51). `wip` is the presence of `cycle` (log 10). -/
structure Device where
  /-- `DevMem` -/
  mem : Memory
  cycle : Option Cycle
  /-- The write-enable latch (R24). -/
  wel : Bool
  /-- The block-protection field (R25). -/
  bp : BitVec 2
  /-- The write-protect-enable bit (R27). -/
  wpen : Bool
  /-- Status bits 6:4 as last returned (R26). -/
  reserved : BitVec 3
  /-- The write-protect pin is asserted (R32). -/
  wp : Bool
  /-- The chip-select line is asserted (R32, R58). -/
  cs : Bool
  /-- The bytes heard since chip-select was asserted (R58). -/
  heard : List Byte
  deriving DecidableEq, Repr

/-! ### The block -/

/-- The running operation, for `BUSY(op, point)` (R16). `command` is a command transaction run on its own (log 17). -/
inductive Op where
  | init
  | deinit
  | isInit
  | write
  | read
  | erase
  | setProt
  | reserved
  | command
  deriving DecidableEq, Repr

/-- The places in the pseudocode of R96 and R112 to R118 where a command transaction is called. -/
inductive Site where
  | initWren
  | initStatus
  | deinitWrdi
  | deinitStatus
  /-- The monitor's first status read (R96). -/
  | monEntry
  /-- The monitor's status read after an elapsed sample (R96). -/
  | monPoll
  | subWren
  | subWrite
  | readStatus
  | readData
  | protStatus
  | protWren
  | protWrite
  /-- A command transaction run on its own. -/
  | bare (i : Instr)
  deriving DecidableEq, Repr

/-- Which interaction of a command transaction is next: the one that sends the frame, or the data phase (R60). -/
inductive Stage where
  | frame
  | data
  deriving DecidableEq, Repr

/-- The next interaction of the pseudocode (R16). -/
inductive Point where
  /-- `TransportInit()` of `INIT`. -/
  | transportInit
  /-- The monitor's reference sample (R98). -/
  | reference
  /-- The monitor's sample in the loop (R96). -/
  | sample
  | command (site : Site) (stage : Stage)
  deriving DecidableEq, Repr

/-- The phase register (R16). -/
inductive Phase where
  | idle
  | busy (op : Op) (point : Point)
  | faulted
  deriving DecidableEq, Repr

/-- The monitor's states (R95). -/
inductive MonState where
  | idle
  | polling
  | done
  | timedOut
  deriving DecidableEq, Repr

/-- The response codes (R68, R121). -/
inductive RespCode where
  | ok
  | errPrecond
  | errAddrRange
  | errTransport
  | errTimeout
  | errBusy
  | errVerify
  | errInternal
  deriving DecidableEq, Repr

/-- The operation registers that request acceptance writes (R18, R107). `none` is the spec's "no value" (R19). -/
structure Latch where
  op : Option (BitVec 3) := none
  addr : Option Word := none
  size : Option Word := none
  level : Option (BitVec 2) := none
  data : Option (List Byte) := none
  deriving DecidableEq, Repr

/-- The working operation registers (R18). `none` is the spec's "no value" (R19). -/
structure Work where
  workAddr : Option Word := none
  remaining : Option Word := none
  offset : Option Word := none
  sectors : Option Word := none
  k : Option Word := none
  n : Option Word := none
  sr : Option Byte := none
  mon : Option MonState := none
  elapsed : Option Word := none
  iter : Option Word := none
  lastMs : Option Word := none
  deriving DecidableEq, Repr

/-- The response registers (R18, R68). `none` is the spec's "no value" (R19). -/
structure Resp where
  code : Option RespCode := none
  value : Option Bool := none
  data : Option (List Byte) := none
  deriving DecidableEq, Repr

/-- What the host does next (R136). -/
inductive HostMove where
  | reset
  /-- It presents a request; or, the model's own door to the command layer, a bare command (log 17). -/
  | present (e : Encoded)
  deriving DecidableEq, Repr

structure State where
  /-- The configuration of R8; no step changes it (R7, log 1). -/
  cfg : Config
  /-- R14 -/
  initialized : Bool
  /-- R15 -/
  faulted : Bool
  /-- R16 -/
  phase : Phase
  /-- R18, latched operation registers. -/
  latch : Latch
  /-- R18, working operation registers. -/
  work : Work
  /-- R18, response registers. -/
  resp : Resp
  /-- The answer of the last bare command transaction (R77, log 17): the model's own. -/
  txn : Option Answer
  /-- R51 -/
  dev : Device
  /-- The host's moves still to come (log 20): the model's own. -/
  host : List HostMove
  /-- The environment's choices already fixed, oldest first (log 5): the model's own. -/
  draws : List Draw
  /-- How many choices were consumed, the argument of the free values (log 5): the model's own. -/
  drawn : Nat
  /-- The outstanding call has not been answered (U8, log 31): the model's own. -/
  waiting : Bool
  /-- Every interaction so far with its answer, oldest first (R72, log 26): the model's own; nothing reads it. -/
  transcript : List Interaction
  deriving DecidableEq, Repr

/-- The device at `State.reset`: the source gives no value (R33, N11); every field is a DESIGN CHOICE (log 9), the array
free (log 8). -/
def Device.initial : Device :=
  { mem := [], cycle := none, wel := false, bp := 0, wpen := false, reserved := 0, wp := false, cs := false, heard := [] }

/-- The machine right after reset (R33, R139): flags 0, phase `IDLE`, every operation register without a value. -/
def State.reset : State :=
  { cfg := {}
    initialized := false
    faulted := false
    phase := .idle
    latch := {}
    work := {}
    resp := {}
    txn := none
    dev := Device.initial
    host := []
    draws := []
    drawn := 0
    waiting := false
    transcript := [] }

/-- Why the machine stops. -/
inductive Fault where
  /-- Raised by `step` alone (no instruction's meaning answers with it), in a `BUSY` state whose next interaction, or what
  follows its answer, reads an operation register that holds no value. The spec states this stop: R19, "faults a read of an
  unwritten register"; U21, treatment `fault`; D23, "Unwritten registers fault if read".
  Safe: no run reaches it (R18). -/
  | unwrittenRegister
  deriving DecidableEq, Repr

/-- Why the model gives no run. -/
inductive Refusal where
  /-- An instruction with no meaning yet, raised by `exec`'s arm. Safe. -/
  | notModelled (mnemonic : String)
  /-- Raised by every meaning and by `step`: the configuration is outside the legal values of R8. Safe. -/
  | illegalConfig
  /-- Raised by a meaning run while the phase is `BUSY`: the host has no move then (R107, U20). Safe. -/
  | whileBusy
  /-- Raised by `step` on a request or a bare command that does not decode (U19, R65). Safe. -/
  | illFormed (e : DecodeError)
  /-- Raised by the meaning of an instruction whose operands are not well formed (U19, R78, R81). Safe. -/
  | badOperands
  /-- Raised by a bare READ or WRITE command in a format the configuration does not have (R65, R78 to R83). Safe. -/
  | formatNotConfigured
  deriving DecidableEq, Repr

end Sys2Proof.Machine
end

