-- ==== Sys2Proof/Machine/Flags.lean ====
section
/-! DEFINITION. Flags: the status byte's fields (R22, R28) and the codes of the registers the host can read (R66, R68, R95). -/

namespace Sys2Proof.Machine

/-- `wip(s) = s[0]` (R28) -/
def wip (s : Byte) : Bool := s.getLsbD 0

/-- `wel(s) = s[1]` (R28) -/
def wel (s : Byte) : Bool := s.getLsbD 1

/-- `bp(s) = s[3:2]` (R28) -/
def bp (s : Byte) : BitVec 2 := s.extractLsb' 2 2

/-- `wpen(s) = s[7]` (R28) -/
def wpen (s : Byte) : Bool := s.getLsbD 7

/-- `with_bp(s, L) = (s AND 0xF3) OR (L << 2)` (R28) -/
def withBp (s : Byte) (l : BitVec 2) : Byte := (s &&& 0xF3#8) ||| (l.setWidth 8 <<< 2)

/-- The response codes of R68. -/
def respCodeBits : RespCode → BitVec 3
  | .ok => 0
  | .errPrecond => 1
  | .errAddrRange => 2
  | .errTransport => 3
  | .errTimeout => 4
  | .errBusy => 5
  | .errVerify => 6
  | .errInternal => 7

/-- The operation codes of R67; a bare command has none. -/
def opBits : Op → Option (BitVec 3)
  | .init => some 0
  | .deinit => some 1
  | .isInit => some 2
  | .write => some 3
  | .read => some 4
  | .erase => some 5
  | .setProt => some 6
  | .reserved => some 7
  | .command => none

/-- The monitor's encoding (R95). -/
def monBits : MonState → BitVec 2
  | .idle => 0
  | .polling => 1
  | .done => 2
  | .timedOut => 3

/-- `assert_before` of a chip-select mode (R66). -/
def assertBefore : CsMode → Bool
  | .none | .stop => false
  | .start | .both => true

/-- `deassert_after` of a chip-select mode (R66). -/
def deassertAfter : CsMode → Bool
  | .none | .start => false
  | .stop | .both => true

/-- The 2-bit code `{assert_before, deassert_after}` (R66). -/
def csBits (cs : CsMode) : BitVec 2 := BitVec.ofBool (assertBefore cs) ++ BitVec.ofBool (deassertAfter cs)

end Sys2Proof.Machine
end

