-- ==== Sys2Proof/Machine/Device.lean ====
section
/-! DEFINITION. Device: the array's memory operations, the device reference model (R51 to R58) and the transport and clock the
block reaches it through (R11, R134, R135). -/

namespace Sys2Proof.Machine

/-! ### Memory -/

/-- The canonical form: addresses strictly rising. (An unlisted address holds no value, so no entry can equal what an
unlisted address holds.) -/
def Memory.wf : Memory → Bool
  | [] => true
  | [_] => true
  | c :: d :: m => decide (c.1 < d.1) && Memory.wf (d :: m)

/-- The byte listed at an address, if any. -/
def Memory.read : Memory → Nat → Option Byte
  | [], _ => none
  | (b, v) :: m, a => if b = a then some v else Memory.read m a

/-- Write one byte, keeping the canonical form. -/
def Memory.write : Memory → Nat → Byte → Memory
  | [], a, v => [(a, v)]
  | (b, w) :: m, a, v =>
    if a < b then (a, v) :: (b, w) :: m
    else if a = b then (a, v) :: m
    else (b, w) :: Memory.write m a v

/-- `DevMem[a]`: what is listed, else the free power-up content (U15, log 8). -/
def Device.byteAt (d : Device) (a : Nat) : Byte := (d.mem.read a).getD (Config.powerUpByte a)

/-- `MemRead(a, n)` (R51), continuing at 0 past the top (R56). -/
def Device.readArray (c : Config) (d : Device) (a n : Nat) : List Byte :=
  (List.range n).map fun i => d.byteAt ((a + i) % capacity c)

/-! ### Status and protection -/

/-- WIP: a write cycle runs (R23, R54). -/
def Device.wip (d : Device) : Bool := d.cycle.isSome

/-- The status byte (R22). -/
def Device.status (d : Device) : Byte :=
  BitVec.ofBool d.wpen ++ d.reserved ++ d.bp ++ BitVec.ofBool d.wel ++ BitVec.ofBool d.wip

/-- The protected range of a BP level (R42). -/
def protectedRange (c : Config) (bp : BitVec 2) (a : Nat) : Bool :=
  match bp.toNat with
  | 0 => false
  | 1 => decide (3 * capacity c / 4 ≤ a)
  | 2 => decide (capacity c / 2 ≤ a)
  | _ => true

/-- An address is write-protected (R43). -/
def Device.writeProtected (c : Config) (d : Device) (a : Nat) : Bool :=
  protectedRange c d.bp a && (!c.bpNeedsWp || d.wp)

/-! ### The write cycle (R54) -/

/-- One byte of a cycle's commit, skipped when protected (R55). -/
def Device.commitByte (c : Config) (d : Device) (m : Memory) (w : Nat × Byte) : Memory :=
  if d.writeProtected c w.1 then m else m.write w.1 w.2

/-- The end of the running cycle (R54): its writes are committed, WIP and WEL are cleared. DESIGN CHOICE (log 38): where the
record holds both bytes and a WRSR's BP (log 13), the bytes' protection is looked at under the BP from before the end. -/
def Device.endCycle (c : Config) (d : Device) : Device :=
  match d.cycle with
  | none => d
  | some y =>
    { d with
      mem := y.writes.foldl (d.commitByte c) d.mem
      bp := (y.status.map Prod.fst).getD d.bp
      wpen := (y.status.map Prod.snd).getD d.wpen
      wel := false
      cycle := none }

/-- What happens at the device before an interaction: the platform may move the WP pin, the cycle may end. -/
def Device.passTime (c : Config) (x : Draw) (d : Device) : Device :=
  let d := { d with wp := x.wpPin.getD d.wp }
  if x.cycleEnds then d.endCycle c else d

/-! ### Commands (R52, R55, R57) -/

/-- The address payload byte `j` of a WRITE command is meant for (R55): it wraps within the page. Past `CAPACITY`, where
R55 says nothing, the high address bits are ignored (log 16). -/
def pageAddress (c : Config) (s j : Nat) : Nat :=
  (s - s % c.pageSize + (s % c.pageSize + j) % c.pageSize) % capacity c

/-- The bytes a WRITE command's cycle commits, ascending `j` (R55); only those that `keep` lets through (U10). -/
def pageWrites (c : Config) (s : Nat) (p : List Byte) (keep : Nat → Bool) : List (Nat × Byte) :=
  p.zipIdx.filterMap fun (b, j) => if keep j then some (pageAddress c s j, b) else none

/-- A WRITE command at chip-select deassertion (R54, R55): accepted when WIP = 0 and WEL = 1. -/
def Device.startWrite (c : Config) (d : Device) (s : Nat) (p : List Byte) (keep : Nat → Bool) : Device :=
  if !d.wip && d.wel then { d with cycle := some ⟨pageWrites c s p keep, none⟩ } else d

/-- The array bytes of the pending write-cycle record (R51). -/
def Device.pendingWrites (d : Device) : List (Nat × Byte) := (d.cycle.map Cycle.writes).getD []

/-- Whether a WRSR is accepted (R57): WEL = 1, and WIP = 0. During a cycle acceptance is drawn (U13, N14, R144; log 13);
whether WPEN with WP blocks it is drawn (U22). -/
def Device.acceptsStatusWrite (x : Draw) (d : Device) : Bool :=
  (!d.wip || x.wrsrInCycle) && d.wel && !(d.wpen && d.wp && x.wrsrBlocked)

/-- A WRSR at chip-select deassertion (R54, R57): an accepted one starts a cycle; one accepted during a cycle joins its
record (DESIGN CHOICE, log 13). -/
def Device.startStatusWrite (x : Draw) (d : Device) (v : Byte) : Device :=
  if d.acceptsStatusWrite x then
    { d with cycle := some ⟨d.pendingWrites, some (Sys2Proof.Machine.bp v, Sys2Proof.Machine.wpen v)⟩ }
  else d

/-- WREN and WRDI (R52): during a cycle, acceptance is drawn (U13). -/
def Device.setLatch (x : Draw) (d : Device) (v : Bool) : Device :=
  if d.wip && !x.latchInCycle then d else { d with wel := v }

/-- What a command that ends at chip-select deassertion does to the device. READ and RDSR change nothing (R40). -/
def Device.obey (c : Config) (x : Draw) (keep : Nat → Bool) (d : Device) : Instr → Device
  | .wren => d.setLatch x true
  | .wrdi => d.setLatch x false
  | .wrsr v => d.startStatusWrite x v
  | .writeA1 a p => d.startWrite c a.toNat p keep
  | .writeA2 a p => d.startWrite c a.toNat p keep
  | .writeA3 a p => d.startWrite c a.toNat p keep
  | .readA1 _ _ | .readA2 _ _ | .readA3 _ _ | .rdsr => d
  | .init | .deinit | .isInit | .write _ _ _ | .read _ _ | .erase _ _ | .setProt _ | .reservedOp7 => d

/-- The bytes heard, read as a command and obeyed; bytes that are no command do nothing (log 28). -/
def Device.finish (c : Config) (x : Draw) (keep : Nat → Bool) (d : Device) (bytes : List Byte) : Device :=
  match decodeWire c ⟨bytes, 0⟩ with
  | .ok i => d.obey c x keep i
  | .error _ => d

/-! ### Transport calls at the device (R58, R66) -/

/-- Bytes that reach the device under a chip-select mode. A command begins at chip-select assertion (log 11) and ends at
its deassertion; with the line deasserted nothing is heard. -/
def Device.deliver (c : Config) (x : Draw) (keep : Nat → Bool) (d : Device) (bytes : List Byte) (cs : CsMode) : Device :=
  let heard := if assertBefore cs then bytes else if d.cs then d.heard ++ bytes else []
  if deassertAfter cs then { d.finish c x keep heard with cs := false, heard := [] }
  else { d with cs := assertBefore cs || d.cs, heard := heard }

/-- The line after a call that answered `Error` (R32, U9); the command it was part of is over. -/
def Device.afterError (x : Draw) (d : Device) : Device := { d with cs := x.csAfter, heard := [] }

/-- `Transmit` at the device. A failing one may have reached it or not, and of a sub-transfer's payload any subset may
land (R39, D25). -/
def Device.transmit (c : Config) (x : Draw) (d : Device) (bytes : List Byte) (cs : CsMode) : Device :=
  match x.reply with
  | .error =>
    (if x.delivered then d.deliver c x (fun j => x.landed.getD j false) bytes cs else d).afterError x
  | _ => d.deliver c x (fun _ => true) bytes cs

/-- `n` bytes the spec leaves unspecified. -/
def unspecified (k n : Nat) : List Byte := (List.range n).map (Config.freeByte k)

/-- The bytes the device answers a READ with: the array, or anything while WIP = 1 (R56, U12). -/
def Device.answerRead (c : Config) (k : Nat) (d : Device) (s m : Nat) : List Byte :=
  if d.wip then unspecified k m else d.readArray c s m

/-- The bytes the device answers a `Receive` with: RDSR's status byte (R53), READ's data (R56), else anything (log 28). -/
def Device.output (c : Config) (k : Nat) (d : Device) (cs : CsMode) (n : Nat) : List Byte :=
  match decodeWire c ⟨if d.cs && !assertBefore cs then d.heard else [], n⟩ with
  | .ok .rdsr => [d.status]
  | .ok (.readA1 a m) => d.answerRead c k a.toNat m
  | .ok (.readA2 a m) => d.answerRead c k a.toNat m
  | .ok (.readA3 a m) => d.answerRead c k a.toNat m
  | _ => unspecified k n

/-- `Receive` answers `Ok` with exactly `n` bytes (R135); positions an oracle's list does not fill are free (log 6). -/
def fit (k n : Nat) (bytes : List Byte) : List Byte :=
  (List.range n).map fun i => bytes.getD i (Config.freeByte k i)

/-- The line after an answered `Receive`. -/
def Device.afterReceive (d : Device) (cs : CsMode) : Device :=
  if deassertAfter cs then { d with cs := false, heard := [] }
  else if assertBefore cs then { d with cs := true, heard := [] }
  else d

/-- One interaction at the environment (R11): choice `x`, number `k`. The device first moves on by itself; the reserved
status bits are drawn at each `Receive` (R26, log 27). -/
def Device.interact (c : Config) (k : Nat) (x : Draw) (d : Device) (call : Call) : Answer × Device :=
  let d := d.passTime c x
  match call with
  | .now => (.time x.now, d)
  | .transportInit =>
    match x.reply with
    | .error => (.error, d.afterError x)
    | _ => (.ok [], d)
  | .transmit bytes cs =>
    match x.reply with
    | .error => (.error, d.transmit c x bytes cs)
    | _ => (.ok [], d.transmit c x bytes cs)
  | .receive n cs =>
    match x.reply with
    | .error => (.error, d.afterError x)
    | _ =>
      let d := { d with reserved := x.reserved }
      (.ok (fit k n (x.rx.getD (d.output c k cs n))), d.afterReceive cs)

end Sys2Proof.Machine
end

