-- ==== Sys2Proof/Machine/Splitter.lean ====
section
/-! DEFINITION. Splitter: the page splitter (R88 to R92), on unbounded naturals (R9, R93). `P` is `PAGE_SIZE`. -/

namespace Sys2Proof.Machine

/-- `sector_count(addr, size)` (R88) -/
def sectorCount (P addr size : Nat) : Nat := (addr + size - 1) / P - addr / P + 1

/-- `transfer_size(addr, remaining)` (R89): the comparison is inclusive. -/
def transferSize (P addr remaining : Nat) : Nat :=
  if remaining ≤ P - addr % P then remaining else P - addr % P

/-- The loop of R90, `sectors` times from `addr` with `remaining` bytes to send: start and length of each sub-transfer. -/
def splitLoop (P : Nat) : Nat → Nat → Nat → List (Nat × Nat)
  | 0, _, _ => []
  | sectors + 1, addr, remaining =>
    let n := transferSize P addr remaining
    (addr, n) :: splitLoop P sectors (addr + n) (remaining - n)

/-- The sub-transfers of a range (R90). -/
def subTransfers (P addr size : Nat) : List (Nat × Nat) := splitLoop P (sectorCount P addr size) addr size

end Sys2Proof.Machine
end

