-- ==== Sys2Proof/Machine/Operands.lean ====
section
/-! DEFINITION. Operands: which command an operation sends for an address (R60, R74), the payload of a sub-transfer (R115,
R117), the access checks (R109, R117), and the calls a command transaction makes (R78 to R87). -/

namespace Sys2Proof.Machine

/-- `SendRead(a, m)` in the configured format (R78, R79, R80). -/
def sendRead (c : Config) (a : Word) (m : Nat) : Instr :=
  if abytes c = 1 then .readA1 (a.setWidth 9) m
  else if abytes c = 2 then .readA2 (a.setWidth 16) m
  else .readA3 (a.setWidth 24) m

/-- `SendWrite(a, p)` in the configured format (R81, R82, R83). -/
def sendWrite (c : Config) (a : Word) (p : List Byte) : Instr :=
  if abytes c = 1 then .writeA1 (a.setWidth 9) p
  else if abytes c = 2 then .writeA2 (a.setWidth 16) p
  else .writeA3 (a.setWidth 24) p

/-- The payload of the current sub-transfer: `data[offset .. offset + n)` (R115), or `ERASE_VALUE` repeated (R117). -/
def payload (s : State) (op : Op) : Option (List Byte) := do
  let n ← s.work.n
  match op with
  | .erase => return List.replicate n.toNat s.cfg.eraseValue
  | _ =>
    let data ← s.latch.data
    let offset ← s.work.offset
    return (data.drop offset.toNat).take n.toNat

/-- `addr + size - 1 > CAPACITY - 1`, in unbounded naturals (R109, R9). -/
def outOfRange (c : Config) (addr size : Word) : Bool :=
  decide (addr.toNat + size.toNat - 1 > capacity c - 1)

/-- `CheckAccess` (R109) in its order; `none` when every check passes. -/
def checkAccess (s : State) (addr size : Word) : Option RespCode :=
  if !s.initialized then some .errPrecond
  else if size = 0 then some .errPrecond
  else if outOfRange s.cfg addr size then some .errAddrRange
  else none

/-- The checks of `ERASE` (R117): the staging-buffer limit stands before the range. -/
def checkErase (s : State) (addr size : Word) : Option RespCode :=
  if !s.initialized then some .errPrecond
  else if size = 0 then some .errPrecond
  else if size.toNat > s.cfg.eraseMax then some .errPrecond
  else if outOfRange s.cfg addr size then some .errAddrRange
  else none

/-- The first interaction of a command transaction: the frame (R78 to R87). Host requests are no commands. -/
def frameCall (c : Config) : Instr → Option Call
  | .readA1 a _ => some (.transmit (frameA1 c c.opcRead a) .start)
  | .readA2 a _ => some (.transmit (frameA2 c.opcRead a) .start)
  | .readA3 a _ => some (.transmit (frameA3 c.opcRead a) .start)
  | .writeA1 a _ => some (.transmit (frameA1 c c.opcWrite a) .start)
  | .writeA2 a _ => some (.transmit (frameA2 c.opcWrite a) .start)
  | .writeA3 a _ => some (.transmit (frameA3 c.opcWrite a) .start)
  | .wren => some (.transmit [c.opcWren] .both)
  | .wrdi => some (.transmit [c.opcWrdi] .both)
  | .rdsr => some (.transmit [c.opcRdsr] .start)
  | .wrsr v => some (.transmit [c.opcWrsr, v] .both)
  | .init | .deinit | .isInit | .write _ _ _ | .read _ _ | .erase _ _ | .setProt _ | .reservedOp7 => none

/-- The second interaction of a command transaction: the data phase, where the format has one (R60). -/
def dataCall : Instr → Option Call
  | .readA1 _ m | .readA2 _ m | .readA3 _ m => some (.receive m .stop)
  | .writeA1 _ p | .writeA2 _ p | .writeA3 _ p => some (.transmit p .stop)
  | .rdsr => some (.receive 1 .stop)
  | .wren | .wrdi | .wrsr _ => none
  | .init | .deinit | .isInit | .write _ _ _ | .read _ _ | .erase _ _ | .setProt _ | .reservedOp7 => none

end Sys2Proof.Machine
end

