-- ==== Sys2Proof/Machine/Ops.lean ====
section
/-! DEFINITION. Ops: the named operations over the state: consuming an environment choice, moving the phase, accepting a
request (R107), responding (R10, R17, R131), the internal fault (R128), and reset (R139, R140). -/

namespace Sys2Proof.Machine

/-! ### The environment's next choice (log 5) -/

/-- The next choice: fixed by the state, else free. -/
def State.draw (s : State) : Draw :=
  match s.draws with
  | x :: _ => x
  | [] => Config.environment s.drawn

/-- The next choice is consumed. -/
def State.spend (s : State) : State := { s with draws := s.draws.tail, drawn := s.drawn + 1 }

/-! ### Phase (R16, R17) -/

/-- The next interaction of the running operation. -/
def State.goto (s : State) (op : Op) (p : Point) : State := { s with phase := .busy op p }

/-- Request acceptance (R107): the response registers and the working registers are fresh (R18, R132), `op` is latched. -/
def State.accept (s : State) (op : Op) : State :=
  { s with
    latch := { s.latch with op := opBits op }
    work := {}
    resp := {}
    txn := none
    waiting := false }

/-- The latched operands of an operation on a range. -/
def State.latchRange (s : State) (addr size : Word) : State :=
  { s with latch := { s.latch with addr := some addr, size := some size } }

/-- `respond(...)` (R10, R17): the one way an operation ends, in success and in every error (R121, R132). The operation
registers are discarded (R131, log 22), the phase is `IDLE`, or `FAULTED` when `faulted = 1`. -/
def State.respondWith (s : State) (r : Resp) : State :=
  { s with
    phase := if s.faulted then .faulted else .idle
    latch := {}
    work := {}
    resp := r }

/-- `respond(code)` -/
def State.respond (s : State) (code : RespCode) : State := s.respondWith { code := some code }

/-- `fault_internal()` (R128): `faulted <- 1`, the running request is answered `ERR_INTERNAL`, the phase is `FAULTED`. -/
def State.faultInternal (s : State) : State := { s with faulted := true }.respond .errInternal

/-! ### Reset and idle time -/

/-- Reset (R139): the block's state to R33's values, with no interaction. The device is not reset (R140); a line left
asserted inside a command is drawn (log 29). -/
def State.hostReset (s : State) : State :=
  let x := s.draw
  let d := s.dev.passTime s.cfg x
  { s.spend with
    initialized := false
    faulted := false
    phase := .idle
    latch := {}
    work := {}
    resp := {}
    txn := none
    waiting := false
    dev := if d.cs then { d with cs := x.csAfter, heard := if x.csAfter then d.heard else [] } else d }

/-- Nothing is asked of the block: it performs no interaction (R138) while the device goes on by itself (log 30). -/
def State.idleTime (s : State) : State := { s.spend with dev := s.dev.passTime s.cfg s.draw }

end Sys2Proof.Machine
end

