-- ==== Sys2Proof/Machine/Monitor.lean ====
section
/-! DEFINITION. Monitor: the write-progress monitor's own work between its interactions (R94 to R106). A `none` is a read of
an unwritten register (R19). -/

namespace Sys2Proof.Machine

/-- Entry: `mon <- Idle`, then the first status read (R96). -/
def State.monitorStart (s : State) (op : Op) : State :=
  { s with work := { s.work with mon := some .idle } }.goto op (.command .monEntry .frame)

/-- `mon <- Done; return Done`: the caller goes on with its WREN (R96, R115). -/
def State.monitorDone (s : State) (op : Op) : State :=
  { s with work := { s.work with mon := some .done } }.goto op (.command .subWren .frame)

/-- The top of the loop (R96): count the pass, then the ceiling test before the sample (R102). -/
def State.monitorPass (s : State) (op : Op) : Option State := do
  let iter ← s.work.iter
  let s := { s with work := { s.work with iter := some (iter + 1) } }
  return if (iter + 1).toNat > s.cfg.iterCeiling then s.faultInternal else s.goto op .sample

/-- After the first status read (R97, R98). -/
def State.monitorEntry (s : State) (op : Op) : Option State := do
  let sr ← s.work.sr
  return if wip sr then
    { s with work := { s.work with elapsed := some 0, iter := some 0 } }.goto op .reference
  else s.monitorDone op

/-- After the reference sample (R98). -/
def State.monitorReference (s : State) (op : Op) (t : Word) : Option State :=
  { s with work := { s.work with lastMs := some t, mon := some .polling } }.monitorPass op

/-- After a sample in the loop (R99): an elapsed sample counts one and is followed by a status read. -/
def State.monitorSample (s : State) (op : Op) (t : Word) : Option State := do
  let last ← s.work.lastMs
  if t = last then s.monitorPass op
  else
    let elapsed ← s.work.elapsed
    return { s with work := { s.work with lastMs := some t, elapsed := some (elapsed + 1) } }.goto op
      (.command .monPoll .frame)

/-- After the status read of an elapsed sample: WIP before the timeout (R101). -/
def State.monitorPoll (s : State) (op : Op) : Option State := do
  let sr ← s.work.sr
  if wip sr then
    let elapsed ← s.work.elapsed
    if elapsed.toNat ≥ s.cfg.timeoutMs then
      return { s with work := { s.work with mon := some .timedOut } }.respond .errTimeout
    else s.monitorPass op
  else return s.monitorDone op

end Sys2Proof.Machine
end

