-- ==== Sys2Proof/Machine/Engine.lean ====
section
/-! DEFINITION. Engine: the transaction engine (R107 to R118): which interaction is next, what its answer leads to, one
interaction, and an operation run to its response. A `none` is a read of an unwritten register (R19). -/

namespace Sys2Proof.Machine

/-! ### The sub-transfer loop (R90, R115) -/

/-- Sub-transfer `k`: its length, then the monitor (R115). -/
def State.subStart (s : State) (op : Op) : Option State := do
  let a ← s.work.workAddr
  let r ← s.work.remaining
  let n := BitVec.ofNat 32 (transferSize s.cfg.pageSize a.toNat r.toNat)
  return { s with work := { s.work with n := some n } }.monitorStart op

/-- `WriteRange(addr, size, data)` (R115) up to its first interaction. -/
def State.writeRange (s : State) (op : Op) (addr size : Word) : State :=
  let n := BitVec.ofNat 32 (transferSize s.cfg.pageSize addr.toNat size.toNat)
  { s with
    work := { s.work with
      sectors := some (BitVec.ofNat 32 (sectorCount s.cfg.pageSize addr.toNat size.toNat))
      workAddr := some addr
      remaining := some size
      offset := some 0
      k := some 0
      n := some n } }.monitorStart op

/-- A sub-transfer is sent: advance, then the next one or `respond(OK)` (R115). -/
def State.subNext (s : State) (op : Op) : Option State := do
  let a ← s.work.workAddr
  let r ← s.work.remaining
  let o ← s.work.offset
  let n ← s.work.n
  let k ← s.work.k
  let sectors ← s.work.sectors
  let s := { s with work := { s.work with
    workAddr := some (a + n), remaining := some (r - n), offset := some (o + n) } }
  if k.toNat + 1 < sectors.toNat then
    State.subStart { s with work := { s.work with k := some (k + 1) } } op
  else return s.respond .ok

/-! ### Command transactions (R77 to R87) -/

/-- The command a place in the pseudocode sends, computed from the operation registers. -/
def siteCommand (s : State) (op : Op) : Site → Option Instr
  | .initWren | .subWren | .protWren => some .wren
  | .deinitWrdi => some .wrdi
  | .initStatus | .deinitStatus | .monEntry | .monPoll | .readStatus | .protStatus => some .rdsr
  | .subWrite => do
    let a ← s.work.workAddr
    let p ← payload s op
    return sendWrite s.cfg a p
  | .readData => do
    let a ← s.latch.addr
    let size ← s.latch.size
    return sendRead s.cfg a size.toNat
  | .protWrite => do
    let sr ← s.work.sr
    let l ← s.latch.level
    return .wrsr (withBp sr l)
  | .bare i => some i

/-- The interaction a point stands for (R16). -/
def pointCall (s : State) (op : Op) : Point → Option Call
  | .transportInit => some .transportInit
  | .reference | .sample => some .now
  | .command site .frame => do
    let i ← siteCommand s op site
    frameCall s.cfg i
  | .command site .data => do
    let i ← siteCommand s op site
    dataCall i

/-- A command transaction run on its own answers its caller (R77, log 17). -/
def State.bareDone (s : State) (a : Answer) : State := { s with phase := .idle, txn := some a }

/-- A command transaction answers `Error` (R77): `ERR_TRANSPORT` (R110, R124). -/
def siteFailed (s : State) : Site → State
  | .bare _ => s.bareDone .error
  | .initWren | .initStatus | .deinitWrdi | .deinitStatus | .monEntry | .monPoll | .subWren | .subWrite
  | .readStatus | .readData | .protStatus | .protWren | .protWrite => s.respond .errTransport

/-- A command transaction answers `Ok`: the pseudocode goes on (R96, R112 to R118). -/
def siteDone (s : State) (op : Op) (bytes : List Byte) : Site → Option State
  | .initWren => some (s.goto op (.command .initStatus .frame))
  | .initStatus => do
    let sr ← s.work.sr
    return if wel sr then { s with initialized := true }.respond .ok else s.respond .errVerify
  | .deinitWrdi => some (s.goto op (.command .deinitStatus .frame))
  | .deinitStatus => do
    let sr ← s.work.sr
    return if wel sr then s.respond .errVerify else { s with initialized := false }.respond .ok
  | .monEntry => s.monitorEntry op
  | .monPoll => s.monitorPoll op
  | .subWren => some (s.goto op (.command .subWrite .frame))
  | .subWrite => s.subNext op
  | .readStatus => do
    let sr ← s.work.sr
    return if wip sr then s.respond .errBusy else s.goto op (.command .readData .frame)
  | .readData => some (s.respondWith { code := some .ok, data := some bytes })
  | .protStatus => some (s.goto op (.command .protWren .frame))
  | .protWren => some (s.goto op (.command .protWrite .frame))
  | .protWrite => some (s.respond .ok)
  | .bare _ => some (s.bareDone (.ok bytes))

/-- `sr <- r.bytes[0]` when the command is RDSR (R86). -/
def State.takeStatus (s : State) (i : Instr) (bytes : List Byte) : State :=
  if i = .rdsr then { s with work := { s.work with sr := bytes.head? } } else s

/-- What an answer leads to (R17): the next point, or the response. -/
def advance (s : State) (op : Op) : Point → Answer → Option State
  | .transportInit, .ok _ => some (s.goto op (.command .initWren .frame))
  | .transportInit, .error => some (s.respond .errTransport)
  | .reference, .time t => s.monitorReference op t
  | .sample, .time t => s.monitorSample op t
  | .command site .frame, .ok _ => do
    let i ← siteCommand s op site
    if (dataCall i).isSome then return s.goto op (.command site .data)
    else siteDone s op [] site
  | .command site .data, .ok bytes => do
    let i ← siteCommand s op site
    siteDone (s.takeStatus i bytes) op bytes site
  | .command site _, .error => some (siteFailed s site)
  | .transportInit, .time _ | .reference, .ok _ | .reference, .error | .sample, .ok _ | .sample, .error
  | .command _ _, .time _ => none

/-! ### One interaction, and an operation to its end (R6) -/

/-- The block issues a call and receives its whole answer (R6, R11): the next environment choice is consumed and the
transcript gains one line. -/
def State.perform (s : State) (call : Call) : State :=
  let r := s.dev.interact s.cfg s.drawn s.draw call
  { s.spend with dev := r.2, waiting := false, transcript := s.transcript ++ [⟨call, r.1⟩] }

/-- The answer `perform` receives. -/
def State.answer (s : State) (call : Call) : Answer := (s.dev.interact s.cfg s.drawn s.draw call).1

/-- The call of the point stays unanswered: the choice is consumed and the block waits in the call (R135, U8). -/
def State.hang (s : State) : State := { s.spend with dev := s.dev.passTime s.cfg s.draw, waiting := true }

/-- ONE interaction (R6): the block issues the call of its point, the environment answers, the block does its internal work
up to the next. An unanswered call leaves the block waiting in it (R135, U8, log 31). DESIGN CHOICE (log 31): a clock read may
stay unanswered too, where R5 and U16 have the clock answer. -/
def State.interact (s : State) : Option State :=
  match s.phase with
  | .busy op p => do
    let call ← pointCall s op p
    if s.draw.reply = .unanswered then return s.hang
    else advance (s.perform call) op p (s.answer call)
  | .idle | .faulted => none

/-- The operations in whose pseudocode a command transaction is called (R96, R112 to R118). -/
def Site.belongs (op : Op) : Site → Bool
  | .initWren | .initStatus => op = .init
  | .deinitWrdi | .deinitStatus => op = .deinit
  | .monEntry | .monPoll | .subWren | .subWrite => op = .write || op = .erase
  | .readStatus | .readData => op = .read
  | .protStatus | .protWren | .protWrite => op = .setProt
  | .bare i => op = .command && (frameCall {} i).isSome

/-- The command transactions with a data phase (R60). -/
def Site.hasData : Site → Bool
  | .initWren | .deinitWrdi | .subWren | .protWren | .protWrite => false
  | .initStatus | .deinitStatus | .monEntry | .monPoll | .subWrite | .readStatus | .readData | .protStatus => true
  | .bare i => (dataCall i).isSome

/-- The point is an interaction of the operation's pseudocode (R16). -/
def Point.belongs (op : Op) : Point → Bool
  | .transportInit => op = .init
  | .reference | .sample => op = .write || op = .erase
  | .command site .frame => site.belongs op
  | .command site .data => site.belongs op && site.hasData

/-- The next interaction of the running operation, or what follows its answer, reads an operation register that holds no
value (R19): it does not go on, though its point is one of the pseudocode's. -/
def State.readsUnwritten (s : State) : Bool :=
  match s.phase with
  | .busy op p => p.belongs op && s.interact.isNone
  | .idle | .faulted => false

/-- More interactions than any operation makes (R103: a monitor call takes at most `ITER_CEILING + 1` samples and status
reads of two calls each, and an operation makes at most `2^32` of them; log 33). -/
def operationFuel : Nat := 2 ^ 72

/-- At most `fuel` interactions, until the operation has responded, a call stays unanswered, or a read of an unwritten
register (which no run reaches) stops it where it stands. -/
def State.run : Nat → State → State
  | 0, s => s
  | fuel + 1, s =>
    match s.phase with
    | .busy _ _ =>
      match s.interact with
      | none => s
      | some t => if t.waiting then t else State.run fuel t
    | .idle | .faulted => s

/-- The operation to its response, or to an unanswered call. -/
def State.runOperation (s : State) : State := s.run operationFuel

/-! ### How every meaning begins -/

/-- A host request (R107, R108): refused outside the legal configurations (R8) and while `BUSY` (U20), answered
`ERR_INTERNAL` with no interaction while `faulted = 1`. -/
def beginRequest (op : Op) (s : State) (body : State → State) : Host.Outcome State Fault Refusal :=
  if configLegal s.cfg then
    match s.phase with
    | .busy _ _ => .refused .whileBusy
    | .idle | .faulted =>
      .next (if s.faulted then (s.accept op).respond .errInternal else body (s.accept op))
  else .refused .illegalConfig

/-- A command transaction on its own (R77 to R87, log 17). A faulted block performs no interaction (R15, log 18). DESIGN CHOICE
(log 39): a READ or WRITE whose range or payload is past the bounds of R78 and R81 runs; only one without a data byte is
refused (log 19). -/
def beginCommand (i : Instr) (s : State) : Host.Outcome State Fault Refusal :=
  if configLegal s.cfg then
    if i.wellFormed then
      if formatApplies s.cfg i then
        match s.phase with
        | .busy _ _ => .refused .whileBusy
        | .idle | .faulted =>
          .next (if s.faulted then s.respond .errInternal
            else ({ s with waiting := false, txn := none }.goto .command (.command (.bare i) .frame)).runOperation)
      else .refused .formatNotConfigured
    else .refused .badOperands
  else .refused .illegalConfig

end Sys2Proof.Machine
end

