-- ==== Sys2Proof/Machine/Commands.lean ====
section
/-! DEFINITION. Commands: the meanings of the SPI command rows (R78 to R87), each one command transaction. -/

namespace Sys2Proof.Machine

/-- READ in format `CA1` (R78). -/
def execReadA1 (a : BitVec 9) (m : Nat) (s : State) : Host.Outcome State Fault Refusal := beginCommand (.readA1 a m) s

/-- READ in format `CA2` (R79). -/
def execReadA2 (a : BitVec 16) (m : Nat) (s : State) : Host.Outcome State Fault Refusal := beginCommand (.readA2 a m) s

/-- READ in format `CA3` (R80). -/
def execReadA3 (a : BitVec 24) (m : Nat) (s : State) : Host.Outcome State Fault Refusal := beginCommand (.readA3 a m) s

/-- WRITE in format `CA1` (R81). -/
def execWriteA1 (a : BitVec 9) (p : List Byte) (s : State) : Host.Outcome State Fault Refusal :=
  beginCommand (.writeA1 a p) s

/-- WRITE in format `CA2` (R82). -/
def execWriteA2 (a : BitVec 16) (p : List Byte) (s : State) : Host.Outcome State Fault Refusal :=
  beginCommand (.writeA2 a p) s

/-- WRITE in format `CA3` (R83). -/
def execWriteA3 (a : BitVec 24) (p : List Byte) (s : State) : Host.Outcome State Fault Refusal :=
  beginCommand (.writeA3 a p) s

/-- WREN (R84). -/
def execWren (s : State) : Host.Outcome State Fault Refusal := beginCommand .wren s

/-- WRDI (R85). -/
def execWrdi (s : State) : Host.Outcome State Fault Refusal := beginCommand .wrdi s

/-- RDSR (R86). -/
def execRdsr (s : State) : Host.Outcome State Fault Refusal := beginCommand .rdsr s

/-- WRSR (R87). -/
def execWrsr (v : Byte) (s : State) : Host.Outcome State Fault Refusal := beginCommand (.wrsr v) s

end Sys2Proof.Machine
end

