-- ==== Sys2Proof/Machine/Requests.lean ====
section
/-! DEFINITION. Requests: the meanings of the host request rows (R112 to R118, R71), each from acceptance to its response. -/

namespace Sys2Proof.Machine

/-- `INIT` (R112). -/
def execInit (s : State) : Host.Outcome State Fault Refusal :=
  beginRequest .init s fun s => (s.goto .init .transportInit).runOperation

/-- `DEINIT` (R113). -/
def execDeinit (s : State) : Host.Outcome State Fault Refusal :=
  beginRequest .deinit s fun s => (s.goto .deinit (.command .deinitWrdi .frame)).runOperation

/-- `IS_INIT` (R114): no interaction. -/
def execIsInit (s : State) : Host.Outcome State Fault Refusal :=
  beginRequest .isInit s fun s => s.respondWith { code := some .ok, value := some s.initialized }

/-- `WRITE` (R115). -/
def execWrite (addr size : Word) (data : List Byte) (s : State) : Host.Outcome State Fault Refusal :=
  if (Instr.write addr size data).wellFormed then
    beginRequest .write s fun s =>
      let s := s.latchRange addr size
      let s := { s with latch := { s.latch with data := some data } }
      match checkAccess s addr size with
      | some e => s.respond e
      | none => (s.writeRange .write addr size).runOperation
  else .refused .badOperands

/-- `READ` (R116). -/
def execRead (addr size : Word) (s : State) : Host.Outcome State Fault Refusal :=
  beginRequest .read s fun s =>
    let s := s.latchRange addr size
    match checkAccess s addr size with
    | some e => s.respond e
    | none => (s.goto .read (.command .readStatus .frame)).runOperation

/-- `ERASE` (R117): the payload is `ERASE_VALUE` repeated (log 24). -/
def execErase (addr size : Word) (s : State) : Host.Outcome State Fault Refusal :=
  beginRequest .erase s fun s =>
    let s := s.latchRange addr size
    match checkErase s addr size with
    | some e => s.respond e
    | none => (s.writeRange .erase addr size).runOperation

/-- `SET_PROT` (R118). -/
def execSetProt (level : Level) (s : State) : Host.Outcome State Fault Refusal :=
  beginRequest .setProt s fun s =>
    let s := { s with latch := { s.latch with level := some (levelCode level) } }
    if s.initialized then (s.goto .setProt (.command .protStatus .frame)).runOperation
    else s.respond .errPrecond

/-- The reserved operation code 7 (R71, R108). -/
def execReservedOp7 (s : State) : Host.Outcome State Fault Refusal :=
  beginRequest .reserved s fun s => s.respond .errPrecond

end Sys2Proof.Machine
end

