-- ==== Sys2Proof/Machine/Dispatch.lean ====
section
/-! DEFINITION. Dispatch: one arm per instruction. -/

namespace Sys2Proof.Machine

def exec (i : Instr) (s : State) : Host.Outcome State Fault Refusal :=
  match i with
  | .readA1 a m => Sys2Proof.Machine.execReadA1 a m s
  | .readA2 a m => Sys2Proof.Machine.execReadA2 a m s
  | .readA3 a m => Sys2Proof.Machine.execReadA3 a m s
  | .writeA1 a p => Sys2Proof.Machine.execWriteA1 a p s
  | .writeA2 a p => Sys2Proof.Machine.execWriteA2 a p s
  | .writeA3 a p => Sys2Proof.Machine.execWriteA3 a p s
  | .wren => Sys2Proof.Machine.execWren s
  | .wrdi => Sys2Proof.Machine.execWrdi s
  | .rdsr => Sys2Proof.Machine.execRdsr s
  | .wrsr v => Sys2Proof.Machine.execWrsr v s
  | .init => Sys2Proof.Machine.execInit s
  | .deinit => Sys2Proof.Machine.execDeinit s
  | .isInit => Sys2Proof.Machine.execIsInit s
  | .write addr size data => Sys2Proof.Machine.execWrite addr size data s
  | .read addr size => Sys2Proof.Machine.execRead addr size s
  | .erase addr size => Sys2Proof.Machine.execErase addr size s
  | .setProt level => Sys2Proof.Machine.execSetProt level s
  | .reservedOp7 => Sys2Proof.Machine.execReservedOp7 s

end Sys2Proof.Machine
end

