-- ==== Sys2Proof/Machine/Fetch.lean ====
section
/-! DEFINITION. Fetch: where the next instruction comes from: the host's next move (R107, R136; the block itself fetches
nothing, R50). -/

namespace Sys2Proof.Machine

/-- A request record is latched whole (R107), fields the operation does not use included (log 23). A bare command latches
nothing. -/
def State.latchEncoded (s : State) : Encoded → State
  | .request r =>
    { s with
      latch := { op := some r.op, addr := some r.addr, size := some r.size, level := some r.level, data := some r.data } }
  | .command _ => s

/-- The running operation goes on from where an unanswered call left it (log 31). A read of an unwritten register faults, as
R19, D23 and U21 (treatment `fault`) state; nothing else does. -/
def State.resume (s : State) : Host.Outcome State Fault Refusal :=
  if s.readsUnwritten then .fault .unwrittenRegister else .next s.runOperation

/-- A state whose next host move presents `e`, and which is ready to accept it. -/
def State.presenting (s : State) (e : Encoded) : State :=
  { s with
    host := .present e :: s.host
    phase := match s.phase with
      | .busy _ _ => if s.faulted then .faulted else .idle
      | p => p }

/-- A word of spec/opcode_table.json as the next instruction. A command word needs the configuration whose opcodes and
format it is written in (R61, R74; log 21). -/
def State.presentingWord (s : State) (nbits w : Nat) : State :=
  match tableEncoded nbits w with
  | .request r => s.presenting (.request r)
  | .command x => { s with cfg := tableConfig nbits w }.presenting (.command x)

end Sys2Proof.Machine
end

