-- ==== Sys2Proof/Machine/Step.lean ====
section
/-! DEFINITION. Step: one move of the machine. -/

namespace Sys2Proof.Machine

/-- One move. A reset comes at any time (R136, R140). While `BUSY` the host has no other move and the operation goes on
(R107). Otherwise the host's next move is accepted, decoded and run to its response; with none, time passes (R138).
Outside the legal configurations there is no run (R8). -/
def step (s : State) : Host.Outcome State Fault Refusal :=
  if configLegal s.cfg then
    match s.host, s.phase with
    | .reset :: rest, _ => .next { s with host := rest }.hostReset
    | _, .busy _ _ => s.resume
    | [], _ => .next s.idleTime
    | .present e :: rest, _ =>
      match decode s.cfg e with
      | .ok i => exec i ({ s with host := rest }.latchEncoded e)
      | .error r => .refused (.illFormed r)
  else .refused .illegalConfig

/-- The state with a word of spec/opcode_table.json placed where `step` takes its next instruction (log 20, log 21). -/
def State.withFetchWord (s : State) (nbits w : Nat) : State := s.presentingWord nbits w

end Sys2Proof.Machine
end

