-- ==== Sys2Proof/Safety.lean ====
section
/-! DEFINITION. Safety: the terms claims are written in: which states are ready, quiet or sound (the invariant), what an
instruction stores to, and the sequences of environment choices a claim assumes. -/

namespace Sys2Proof.Machine

/-! ### Ready and quiet states -/

/-- The block can accept a request and serve it: legal configuration (R8), phase `IDLE`, not faulted (R107, R108). -/
structure Ready (s : State) : Prop where
  legal : configLegal s.cfg = true
  idle : s.phase = .idle
  healthy : s.faulted = false

/-- No operation runs (R151). -/
def Quiet (s : State) : Prop := s.phase = .idle ∨ s.phase = .faulted

/-- A host request (R67), as opposed to an SPI command (R70). -/
def isRequest : Instr → Bool
  | .init | .deinit | .isInit | .write _ _ _ | .read _ _ | .erase _ _ | .setProt _ | .reservedOp7 => true
  | .readA1 _ _ | .readA2 _ _ | .readA3 _ _ | .writeA1 _ _ | .writeA2 _ _ | .writeA3 _ _
  | .wren | .wrdi | .rdsr | .wrsr _ => false

/-- The start address a READ or WRITE command carries (R64). -/
def commandAddress : Instr → Option Nat
  | .readA1 a _ | .writeA1 a _ => some a.toNat
  | .readA2 a _ | .writeA2 a _ => some a.toNat
  | .readA3 a _ | .writeA3 a _ => some a.toNat
  | .wren | .wrdi | .rdsr | .wrsr _ => none
  | .init | .deinit | .isInit | .write _ _ _ | .read _ _ | .erase _ _ | .setProt _ | .reservedOp7 => none

/-! ### What may be stored -/

/-- The array addresses an instruction's own WRITE commands may store to: a WRITE command's by `pageAddress` (R55), a
request's by its range (R115, R117). -/
def storesTo (c : Config) : Instr → Nat → Prop
  | .writeA1 s p, a => ∃ j < p.length, a = pageAddress c s.toNat j
  | .writeA2 s p, a => ∃ j < p.length, a = pageAddress c s.toNat j
  | .writeA3 s p, a => ∃ j < p.length, a = pageAddress c s.toNat j
  | .write addr size _, a => addr.toNat ≤ a ∧ a < addr.toNat + size.toNat
  | .erase addr size, a => addr.toNat ≤ a ∧ a < addr.toNat + size.toNat
  | .readA1 _ _, _ | .readA2 _ _, _ | .readA3 _ _, _ | .wren, _ | .wrdi, _ | .rdsr, _ | .wrsr _, _ => False
  | .init, _ | .deinit, _ | .isInit, _ | .read _ _, _ | .setProt _, _ | .reservedOp7, _ => False

/-- The address is in the record of the device's pending write cycle. -/
def Pending (d : Device) (a : Nat) : Prop := ∃ y, d.cycle = some y ∧ ∃ v, (a, v) ∈ y.writes

/-! ### The invariant -/

/-- Every address a memory lists is in the array. -/
def Bounded (n : Nat) (m : List (Nat × Byte)) : Prop := ∀ w ∈ m, w.1 < n

/-- The device's array is in canonical form, and neither it nor the pending record names an address past `CAPACITY`
(R41). -/
structure DeviceInv (c : Config) (d : Device) : Prop where
  canonical : d.mem.wf = true
  bounded : Bounded (capacity c) d.mem
  pending : ∀ y, d.cycle = some y → Bounded (capacity c) y.writes

/-- The registers of a running `WRITE` or `ERASE` (R18, R90): all written, the current sub-transfer inside the range and
inside page `first + k`, `n` as R89 gives it. -/
structure WriteInv (s : State) (op : Op) : Prop where
  regs : ∃ addr size a r o sectors k n : Word,
    s.latch.addr = some addr ∧ s.latch.size = some size ∧ s.work.workAddr = some a ∧ s.work.remaining = some r
      ∧ s.work.offset = some o ∧ s.work.sectors = some sectors ∧ s.work.k = some k ∧ s.work.n = some n
      ∧ addr.toNat + size.toNat ≤ capacity s.cfg
      ∧ a.toNat = addr.toNat + o.toNat ∧ o.toNat + r.toNat = size.toNat ∧ 1 ≤ r.toNat
      ∧ sectors.toNat = sectorCount s.cfg.pageSize addr.toNat size.toNat
      ∧ k.toNat < sectors.toNat
      ∧ a.toNat / s.cfg.pageSize = addr.toNat / s.cfg.pageSize + k.toNat
      ∧ (1 ≤ k.toNat → a.toNat % s.cfg.pageSize = 0)
      ∧ n.toNat = transferSize s.cfg.pageSize a.toNat r.toNat
      ∧ (op = .write → ∃ data, s.latch.data = some data ∧ data.length = size.toNat)

/-- The monitor's counters in its loop (R96): `lo` elapsed samples at most, passes within the ceiling. -/
def MonitorInv (s : State) (maxElapsed : Nat) : Prop :=
  ∃ e i t, s.work.elapsed = some e ∧ s.work.iter = some i ∧ s.work.lastMs = some t
    ∧ e.toNat ≤ maxElapsed ∧ 1 ≤ i.toNat ∧ i.toNat ≤ s.cfg.iterCeiling

/-- The latched range of a running `READ`, accepted by the range check (R109). -/
def ReadInv (s : State) : Prop :=
  ∃ addr size, s.latch.addr = some addr ∧ s.latch.size = some size ∧ 1 ≤ size.toNat
    ∧ addr.toNat + size.toNat ≤ capacity s.cfg

/-- What holds at each point of each operation (R16, R18): the point belongs to the operation, and the registers that are
read from it on are written. -/
def PointInv (s : State) (op : Op) : Point → Prop
  | .transportInit => op = .init
  | .reference =>
    (op = .write ∨ op = .erase) ∧ WriteInv s op ∧ s.work.elapsed = some 0 ∧ s.work.iter = some 0
  | .sample => (op = .write ∨ op = .erase) ∧ WriteInv s op ∧ MonitorInv s (s.cfg.timeoutMs - 1)
  | .command .initWren .frame | .command .initStatus _ => op = .init
  | .command .deinitWrdi .frame | .command .deinitStatus _ => op = .deinit
  | .command .monEntry _ | .command .subWren .frame | .command .subWrite _ =>
    (op = .write ∨ op = .erase) ∧ WriteInv s op
  | .command .monPoll _ => (op = .write ∨ op = .erase) ∧ WriteInv s op ∧ MonitorInv s s.cfg.timeoutMs
  | .command .readStatus _ | .command .readData _ => op = .read ∧ ReadInv s
  | .command .protStatus _ => op = .setProt ∧ ∃ l, s.latch.level = some l
  | .command .protWren .frame | .command .protWrite .frame =>
    op = .setProt ∧ (∃ l, s.latch.level = some l) ∧ ∃ v, s.work.sr = some v
  | .command (.bare i) .frame =>
    op = .command ∧ isRequest i = false ∧ i.wellFormed = true ∧ formatApplies s.cfg i = true
  | .command (.bare i) .data =>
    op = .command ∧ isRequest i = false ∧ i.wellFormed = true ∧ formatApplies s.cfg i = true ∧ (dataCall i).isSome
  | .command .initWren .data | .command .deinitWrdi .data | .command .subWren .data
  | .command .protWren .data | .command .protWrite .data => False

/-- No operation register holds a value, but the status byte a bare RDSR leaves (R19, R131, log 17). -/
def Unwritten (s : State) : Prop := s.latch = {} ∧ s.work = { sr := s.work.sr }

/-- The phase register against the flags and the registers (R14 to R19). -/
def PhaseInv (s : State) : Prop :=
  match s.phase with
  | .idle => s.faulted = false ∧ Unwritten s ∧ s.waiting = false
  | .faulted => s.faulted = true ∧ Unwritten s ∧ s.waiting = false
  | .busy op p =>
    s.faulted = false ∧ PointInv s op p
      ∧ (op = .command → Unwritten s) ∧ (op ≠ .command → s.resp = {})
      ∧ (op = .write ∨ op = .read ∨ op = .erase ∨ op = .setProt → s.initialized = true)

/-- The invariant every step keeps. -/
structure Inv (s : State) : Prop where
  legal : configLegal s.cfg = true
  device : DeviceInv s.cfg s.dev
  phase : PhaseInv s
  /-- `resp_data` and `resp_value` stand only beside `OK` (R19, R68). -/
  resp : s.resp.data.isSome ∨ s.resp.value.isSome → s.resp.code = some .ok

/-! ### Environment choices a claim assumes -/

/-- The choice answers its call with `Ok` (R135). -/
def Answers (x : Draw) : Prop := x.reply = .ok

/-- The choice answers `Ok`, and a `Receive` under it returns the bytes `l` (R135, log 6). -/
def Receives (l : List Byte) (x : Draw) : Prop := x.reply = .ok ∧ x.rx = some l

/-- The choice answers a clock read with `t` (R134). -/
def Shows (t : Word) (x : Draw) : Prop := x.reply = .ok ∧ x.now = t

/-- The choice answers `Ok` with the device's own bytes (log 6) and leaves the WP pin alone. -/
def Faithful (x : Draw) : Prop := x.reply = .ok ∧ x.rx = none ∧ x.wpPin = none

/-- A monitor's polling under a status byte `b` (R96, R99): for each clock sample of the list, the sample, and a status
read of two calls returning `b`. -/
def PollDraws (b : Byte) : List Word → List Draw → Prop
  | [], xs => xs = []
  | t :: ts, xs =>
    ∃ x y z rest, xs = x :: y :: z :: rest ∧ Shows t x ∧ Answers y ∧ Receives [b] z ∧ PollDraws b ts rest

/-- Consecutive samples differ, from `last` on: every sample of the list is an elapsed sample (R99). -/
def AllElapsed (last : Word) : List Word → Prop
  | [] => True
  | t :: ts => t ≠ last ∧ AllElapsed t ts

/-- The state after `n` interactions (R6), none of which reads an unwritten register. -/
def State.after : Nat → State → Option State
  | 0, s => some s
  | n + 1, s => s.interact.bind (State.after n)

/-! ### Transcript lines (R72) -/

/-- `TX[cs] b -> Ok` -/
def txOk (b : List Byte) (cs : CsMode) : Interaction := ⟨.transmit b cs, .ok []⟩

/-- `RX[cs] n -> b`, `n` the number of bytes -/
def rxOk (b : List Byte) (cs : CsMode) : Interaction := ⟨.receive b.length cs, .ok b⟩

/-- `ReadStatus()` returning `b` (R86). -/
def statusRead (c : Config) (b : Byte) : List Interaction := [txOk [c.opcRdsr] .start, rxOk [b] .stop]

/-- One sub-transfer of a write with WIP clear at its wait (R115): `b` the status byte, `a` its address, `p` its
payload. -/
def subTransferLines (c : Config) (b : Byte) (a : Nat) (p : List Byte) : List Interaction :=
  statusRead c b
    ++ [txOk [c.opcWren] .both, txOk (assemble c c.opcWrite (BitVec.ofNat 32 a)) .start, txOk p .stop]

/-! ### The end of an operation -/

/-- `t` is `s` after a response `r` (R131, R132): phase `IDLE`, operation registers discarded, configuration and host
as they were. -/
structure Responded (s t : State) (r : Resp) : Prop where
  phase : t.phase = .idle
  resp : t.resp = r
  latch : t.latch = {}
  work : t.work = {}
  faulted : t.faulted = false
  waiting : t.waiting = false
  cfg : t.cfg = s.cfg
  host : t.host = s.host

/-- Nothing was asked of the environment between `s` and `t` (R120). -/
structure NoInteraction (s t : State) : Prop where
  transcript : t.transcript = s.transcript
  dev : t.dev = s.dev
  draws : t.draws = s.draws
  drawn : t.drawn = s.drawn

/-- `t` is `s` after a bare command transaction with answer `a` (R77, log 17): the block's registers are as they were. -/
structure Transacted (s t : State) (a : Answer) : Prop where
  phase : t.phase = .idle
  txn : t.txn = some a
  latch : t.latch = s.latch
  resp : t.resp = s.resp
  initialized : t.initialized = s.initialized
  faulted : t.faulted = s.faulted
  waiting : t.waiting = false
  cfg : t.cfg = s.cfg
  host : t.host = s.host

end Sys2Proof.Machine
end

