-- ==== Sys2Proof/Certificates/Slice0/Obligations.lean ====
section
/-! DEFINITION. Obligations: the statements for the provers, family by family. Each docstring names the rules it rests on. -/

open Sys2Proof Sys2Proof.Machine

/-! ### Encoding -/

/-- R60, R62, R63, R67: no bit of an encoding is dropped. -/
def Obligations.DecodeOfEncodeIsInstruction : Prop :=
  ∀ (c : Config) (i : Instr), configLegal c = true → i.wellFormed = true → formatApplies c i = true →
    decode c (encode c i) = .ok i

/-- R60, R65, R70: a command's bytes have one reading, and what is read is a well-formed command of a configured format. -/
def Obligations.EncodeOfDecodedCommandIsBytes : Prop :=
  ∀ (c : Config) (w : Wire) (i : Instr), decodeWire c w = .ok i →
    encode c i = .command w ∧ isRequest i = false ∧ i.wellFormed = true ∧ formatApplies c i = true

/-- R64. The start address and the command of a READ or WRITE frame, byte by byte; and the frame of a legal address gives
the address back. -/
def Obligations.FrameDecodesToItsAddress : Prop :=
  ∀ c : Config, configLegal c = true →
    (∀ (f0 f1 : Byte) (m : Nat) (p : List Byte), abytes c = 1 → 1 ≤ m → p ≠ [] →
      (f0 &&& ~~~(1#8 <<< c.a8Bit.val) = c.opcRead → ∃ i, decodeWire c ⟨[f0, f1], m⟩ = .ok i
        ∧ commandAddress i = some (((f0.getLsbD c.a8Bit.val).toNat <<< 8) ||| f1.toNat) ∧ (∃ a, i = .readA1 a m))
      ∧ (f0 &&& ~~~(1#8 <<< c.a8Bit.val) = c.opcWrite → ∃ i, decodeWire c ⟨f0 :: f1 :: p, 0⟩ = .ok i
        ∧ commandAddress i = some (((f0.getLsbD c.a8Bit.val).toNat <<< 8) ||| f1.toNat) ∧ (∃ a, i = .writeA1 a p)))
    ∧ (∀ (f1 f2 : Byte) (m : Nat) (p : List Byte), abytes c = 2 → 1 ≤ m → p ≠ [] →
      (∃ i, decodeWire c ⟨[c.opcRead, f1, f2], m⟩ = .ok i
        ∧ commandAddress i = some ((f1.toNat <<< 8) ||| f2.toNat) ∧ (∃ a, i = .readA2 a m))
      ∧ (∃ i, decodeWire c ⟨c.opcWrite :: f1 :: f2 :: p, 0⟩ = .ok i
        ∧ commandAddress i = some ((f1.toNat <<< 8) ||| f2.toNat) ∧ (∃ a, i = .writeA2 a p)))
    ∧ (∀ (f1 f2 f3 : Byte) (m : Nat) (p : List Byte), abytes c = 3 → 1 ≤ m → p ≠ [] →
      (∃ i, decodeWire c ⟨[c.opcRead, f1, f2, f3], m⟩ = .ok i
        ∧ commandAddress i = some ((f1.toNat <<< 16) ||| (f2.toNat <<< 8) ||| f3.toNat) ∧ (∃ a, i = .readA3 a m))
      ∧ (∃ i, decodeWire c ⟨c.opcWrite :: f1 :: f2 :: f3 :: p, 0⟩ = .ok i
        ∧ commandAddress i = some ((f1.toNat <<< 16) ||| (f2.toNat <<< 8) ||| f3.toNat) ∧ (∃ a, i = .writeA3 a p)))
    ∧ (∀ (a : Word) (m : Nat) (p : List Byte), a.toNat < capacity c → 1 ≤ m → p ≠ [] →
      (∃ i, decodeWire c ⟨assemble c c.opcRead a, m⟩ = .ok i ∧ commandAddress i = some a.toNat)
      ∧ (∃ i, decodeWire c ⟨assemble c c.opcWrite a ++ p, 0⟩ = .ok i ∧ commandAddress i = some a.toNat))

/-- R61, R67 and the rows of spec/opcode_table.json: words written out from the table. -/
def Obligations.TableWordsDecode : Prop :=
  decodeTableWord 16 0xA50B = some (.readA1 0x1A5 1) ∧ decodeTableWord 24 0x341203 = some (.readA2 0x1234 1)
    ∧ decodeTableWord 32 0x45230103 = some (.readA3 0x012345 1)
    ∧ decodeTableWord 16 0x4202 = some (.writeA1 0x42 [0]) ∧ decodeTableWord 24 0x341202 = some (.writeA2 0x1234 [0])
    ∧ decodeTableWord 16 0x0801 = some (.wrsr 0x08) ∧ decodeTableWord 8 3 = some (.write 0 0 [])
    ∧ decodeTableWord 8 0 = some .init ∧ decodeTableWord 8 7 = some .reservedOp7

/-- R74, R75: the frame's bytes for each address width, and its length. -/
def Obligations.AssembleWritesTheFrame : Prop :=
  ∀ (c : Config) (opc : Byte) (a : Word),
    (c.addrBits ≤ 9 → abytes c = 1 ∧ assemble c opc a =
      [(opc &&& ~~~(1#8 <<< c.a8Bit.val)) ||| ((a.extractLsb' 8 1).setWidth 8 <<< c.a8Bit.val), a.extractLsb' 0 8])
    ∧ (10 ≤ c.addrBits → c.addrBits ≤ 16 → abytes c = 2 ∧
      assemble c opc a = [opc, a.extractLsb' 8 8, a.extractLsb' 0 8])
    ∧ (17 ≤ c.addrBits → c.addrBits ≤ 24 → abytes c = 3 ∧
      assemble c opc a = [opc, a.extractLsb' 16 8, a.extractLsb' 8 8, a.extractLsb' 0 8])
    ∧ (assemble c opc a).length = 1 + abytes c

/-- R75, R78 to R83: the frame the engine sends for an address is the framer's. -/
def Obligations.SentFrameIsAssembled : Prop :=
  ∀ (c : Config) (a : Word) (m : Nat) (p : List Byte),
    encode c (sendRead c a m) = .command ⟨assemble c c.opcRead a, m⟩
    ∧ encode c (sendWrite c a p) = .command ⟨assemble c c.opcWrite a ++ p, 0⟩
    ∧ frameCall c (sendRead c a m) = some (.transmit (assemble c c.opcRead a) .start)
    ∧ frameCall c (sendWrite c a p) = some (.transmit (assemble c c.opcWrite a) .start)
    ∧ dataCall (sendRead c a m) = some (.receive m .stop) ∧ dataCall (sendWrite c a p) = some (.transmit p .stop)

/-! ### The status byte -/

/-- R28: the accessors of a status byte, and that `with_bp` replaces BP alone. -/
def Obligations.WithBpReplacesOnlyBp : Prop :=
  ∀ (s : Byte) (l : BitVec 2),
    wip s = s[0] ∧ wel s = s[1] ∧ bp s = s.extractLsb 3 2 ∧ wpen s = s[7]
      ∧ withBp s l = (s &&& 0xF3) ||| (l.setWidth 8 <<< 2)
      ∧ bp (withBp s l) = l ∧ wip (withBp s l) = wip s ∧ wel (withBp s l) = wel s ∧ wpen (withBp s l) = wpen s
      ∧ (withBp s l).extractLsb' 4 3 = s.extractLsb' 4 3

/-- R22, R51: the byte the device answers a status read with shows each of its fields at R22's position. -/
def Obligations.StatusByteShowsTheFields : Prop :=
  ∀ d : Device, wip d.status = d.wip ∧ wel d.status = d.wel ∧ bp d.status = d.bp ∧ wpen d.status = d.wpen
    ∧ d.status.extractLsb' 4 3 = d.reserved

/-! ### The page splitter -/

/-- R91, all six invariants, with R90's loop as `subTransfers`. -/
def Obligations.SubTransfersCutTheRange : Prop :=
  ∀ (P addr size cap : Nat), 1 ≤ P → 1 ≤ size → addr + size - 1 ≤ cap - 1 →
    (subTransfers P addr size).length = sectorCount P addr size
    ∧ (∀ k s n, (subTransfers P addr size)[k]? = some (s, n) →
      1 ≤ n ∧ s % P + n ≤ P ∧ (1 ≤ k → s % P = 0) ∧ s / P = addr / P + k
        ∧ (k = 0 → s = addr)
        ∧ ∀ s' n', (subTransfers P addr size)[k + 1]? = some (s', n') → s' = s + n)
    ∧ ((subTransfers P addr size).map Prod.snd).sum = size

/-- R92: the closed form of the lengths. -/
def Obligations.SubTransferLengthsClosedForm : Prop :=
  ∀ (P addr size : Nat), 1 ≤ P → 1 ≤ size →
    (sectorCount P addr size = 1 → (subTransfers P addr size).map Prod.snd = [size])
    ∧ ∀ c, sectorCount P addr size = c + 2 →
      (subTransfers P addr size).map Prod.snd =
        (P - addr % P) :: List.replicate c P ++ [(addr + size - 1) % P + 1]

/-! ### Interactions -/

/-- R6, R11, R17: an interaction is one call with its whole answer, or stays unanswered with the phase as it was (R135, U8); it
touches neither the configuration (R7) nor the host.
That a clock read may stay unanswered too, where R5 has the clock answer each read, is the model's choice (log 31). -/
def Obligations.InteractionIsOneCall : Prop :=
  ∀ s t : State, s.interact = some t →
    t.cfg = s.cfg ∧ t.host = s.host ∧ t.draws = s.draws.tail ∧ t.drawn = s.drawn + 1
    ∧ ∃ op p call, s.phase = .busy op p ∧ pointCall s op p = some call
      ∧ ((t.waiting = true ∧ s.draw.reply = .unanswered ∧ t.phase = s.phase ∧ t.transcript = s.transcript)
        ∨ (t.waiting = false ∧ s.draw.reply ≠ .unanswered ∧ ∃ a, t.transcript = s.transcript ++ [⟨call, a⟩]))

/-- R70: whatever an operation transmits is a frame or a payload of one of the ten command forms, well formed and in the
configured format. -/
def Obligations.OnlyTableFormsAreSent : Prop :=
  ∀ (s : State) (op : Op) (p : Point) (b : List Byte) (cs : CsMode), Inv s → s.phase = .busy op p →
    pointCall s op p = some (.transmit b cs) →
    ∃ i, isRequest i = false ∧ i.wellFormed = true ∧ formatApplies s.cfg i = true
      ∧ (frameCall s.cfg i = some (.transmit b cs) ∨ dataCall i = some (.transmit b cs))

/-- R146, R77: an answered frame of a command with a data phase is followed by that command's data phase, and a failed
frame by no data phase. -/
def Obligations.DataPhaseFollowsItsFrame : Prop :=
  ∀ (s t : State) (op : Op) (site : Site) (i : Instr) (d : Call),
    s.phase = .busy op (.command site .frame) → siteCommand s op site = some i → dataCall i = some d →
    s.interact = some t →
    (s.draw.reply = .ok → t.phase = .busy op (.command site .data) ∧ pointCall t op (.command site .data) = some d)
    ∧ (s.draw.reply = .error → ∀ op' p', t.phase ≠ .busy op' p')

/-- R110, R124, R131: in every operation a failed transport call ends the operation with `ERR_TRANSPORT`; the flags keep
their values. -/
def Obligations.TransportErrorAborts : Prop :=
  ∀ (s : State) (op : Op) (p : Point), Inv s → s.phase = .busy op p → op ≠ .command → p ≠ .reference → p ≠ .sample →
    s.draw.reply = .error →
    ∃ t call, s.interact = some t ∧ pointCall s op p = some call ∧ Responded s t { code := some .errTransport }
      ∧ t.initialized = s.initialized ∧ t.transcript = s.transcript ++ [⟨call, .error⟩]

/-! ### The write-progress monitor -/

/-- R97: WIP clear on entry gives `Done` with no clock read. -/
def Obligations.MonitorEntryWithWipClear : Prop :=
  ∀ (s : State) (op : Op) (x y : Draw) (rest : List Draw) (b : Byte),
    s.phase = .busy op (.command .monEntry .frame) → s.draws = x :: y :: rest → Answers x → Receives [b] y →
    wip b = false →
    ∃ t, s.after 2 = some t ∧ t.phase = .busy op (.command .subWren .frame) ∧ t.work.mon = some .done
      ∧ t.work = { s.work with sr := some b, mon := some .done } ∧ t.latch = s.latch ∧ t.draws = rest
      ∧ t.transcript = s.transcript ++ statusRead s.cfg b

/-- R98: WIP set on entry zeroes the counters, takes one reference sample and enters the loop. -/
def Obligations.MonitorEntryWithWipSet : Prop :=
  ∀ (s : State) (op : Op) (x y z : Draw) (rest : List Draw) (b : Byte) (t0 : Word),
    configLegal s.cfg = true →
    s.phase = .busy op (.command .monEntry .frame) → s.draws = x :: y :: z :: rest → Answers x → Receives [b] y →
    Shows t0 z → wip b = true →
    ∃ t, s.after 3 = some t ∧ t.phase = .busy op .sample
      ∧ t.work = { s.work with sr := some b, mon := some .polling, elapsed := some 0, iter := some 1, lastMs := some t0 }
      ∧ t.latch = s.latch ∧ t.draws = rest
      ∧ t.transcript = s.transcript ++ statusRead s.cfg b ++ [⟨.now, .time t0⟩]

/-- R99, R102, R128: a changed sample counts one and is followed by a status read; an unchanged one changes nothing but
`iter`, and past the ceiling the block faults before sampling again. -/
def Obligations.MonitorCountsChangedSamples : Prop :=
  ∀ (s : State) (op : Op) (last e i : Word), s.phase = .busy op .sample → s.draw.reply ≠ .unanswered →
    s.work.lastMs = some last → s.work.elapsed = some e → s.work.iter = some i → i.toNat < 2 ^ 32 - 1 →
    ∃ t, s.interact = some t ∧ t.transcript = s.transcript ++ [⟨.now, .time s.draw.now⟩]
      ∧ (s.draw.now ≠ last → t.phase = .busy op (.command .monPoll .frame)
        ∧ t.work = { s.work with lastMs := some s.draw.now, elapsed := some (e + 1) } ∧ t.faulted = s.faulted)
      ∧ (s.draw.now = last → i.toNat + 1 ≤ s.cfg.iterCeiling →
        t.phase = .busy op .sample ∧ t.work = { s.work with iter := some (i + 1) } ∧ t.faulted = s.faulted)
      ∧ (s.draw.now = last → s.cfg.iterCeiling < i.toNat + 1 →
        t.phase = .faulted ∧ t.faulted = true ∧ t.resp = { code := some .errInternal } ∧ t.latch = {} ∧ t.work = {})

/-- R101, R125, R130: after an elapsed sample's status read, WIP clear gives `Done` before the timeout is tested; at the
timeout the operation answers `ERR_TIMEOUT`; else the loop goes on, to the next sample or, past the ceiling, to the internal
fault. -/
def Obligations.MonitorPollDecides : Prop :=
  ∀ (s : State) (op : Op) (b : Byte) (e i : Word), s.phase = .busy op (.command .monPoll .data) →
    Receives [b] s.draw → s.work.elapsed = some e → s.work.iter = some i → s.faulted = false → i.toNat < 2 ^ 32 - 1 →
    ∃ t, s.interact = some t ∧ t.transcript = s.transcript ++ [rxOk [b] .stop]
      ∧ (wip b = false → t.phase = .busy op (.command .subWren .frame)
        ∧ t.work = { s.work with sr := some b, mon := some .done })
      ∧ (wip b = true → s.cfg.timeoutMs ≤ e.toNat → Responded s t { code := some .errTimeout })
      ∧ (wip b = true → e.toNat < s.cfg.timeoutMs → i.toNat + 1 ≤ s.cfg.iterCeiling → t.phase = .busy op .sample
        ∧ t.work = { s.work with sr := some b, iter := some (i + 1) })
      ∧ (wip b = true → e.toNat < s.cfg.timeoutMs → s.cfg.iterCeiling < i.toNat + 1 → t.phase = .faulted
        ∧ t.faulted = true ∧ t.resp = { code := some .errInternal } ∧ t.latch = {} ∧ t.work = {})

/-- R103, R17: every instruction runs to its end under every environment: if it has not ended, a call is unanswered (U8; that the
call may be a clock read is the model's choice, log 31). -/
def Obligations.EveryInstructionEnds : Prop :=
  ∀ (i : Instr) (s t : State) (op : Op) (p : Point), exec i s = .next t → t.phase = .busy op p → t.waiting = true

/-! ### The step -/

/-- R107, R108: the step of a state whose host presents an instruction is that instruction's meaning, after the request
record is latched.
That the host's moves are a list in the state is the model's choice (log 20), and what is latched is log 23. -/
def Obligations.StepRunsThePresentedInstruction : Prop :=
  ∀ (s : State) (e : Encoded) (rest : List HostMove) (i : Instr), configLegal s.cfg = true → Quiet s →
    s.host = .present e :: rest → decode s.cfg e = .ok i →
    step s = exec i ({ s with host := rest }.latchEncoded e)

/-- R107, R136: while the phase is `BUSY` the host has no move but reset: the step goes on with the operation and leaves
the host's moves where they are.
That a later step goes on, asking the unanswered call again, where U8 gives the block no further step, is the model's choice
(log 4, log 31), and so is that the host's moves are a list in the state (log 20). -/
def Obligations.BusyStepKeepsTheHostWaiting : Prop :=
  ∀ (s t : State) (op : Op) (p : Point), s.phase = .busy op p → (∀ rest, s.host ≠ .reset :: rest) → step s = .next t →
    t = s.runOperation ∧ t.host = s.host

/-- R139: a reset, in whatever phase it comes, puts every piece of block state to R33's value, performs no interaction and
keeps the configuration. -/
def Obligations.ResetClearsTheBlock : Prop :=
  ∀ (s : State) (rest : List HostMove), configLegal s.cfg = true → s.host = .reset :: rest →
    ∃ t, step s = .next t ∧ t.initialized = false ∧ t.faulted = false ∧ t.phase = .idle ∧ t.latch = {} ∧ t.work = {}
      ∧ t.resp = {} ∧ t.transcript = s.transcript ∧ t.cfg = s.cfg ∧ t.host = rest

/-- R140: the device is not reset with the block. That time passes at the device over a reset is the model's choice (log 29,
log 30). -/
def Obligations.ResetLeavesTheDevice : Prop :=
  ∀ (s : State) (rest : List HostMove), configLegal s.cfg = true → s.host = .reset :: rest →
    ∃ t, step s = .next t ∧ t.dev.mem = (s.dev.passTime s.cfg s.draw).mem
      ∧ t.dev.cycle = (s.dev.passTime s.cfg s.draw).cycle ∧ t.dev.wel = (s.dev.passTime s.cfg s.draw).wel
      ∧ t.dev.bp = (s.dev.passTime s.cfg s.draw).bp ∧ t.dev.wpen = (s.dev.passTime s.cfg s.draw).wpen
      ∧ (s.draw.cycleEnds = false → t.dev.mem = s.dev.mem ∧ t.dev.cycle = s.dev.cycle ∧ t.dev.wel = s.dev.wel)

/-- R33: the values after reset of the two flags, the phase and every operation register. -/
def Obligations.ResetStateValues : Prop :=
  State.reset.initialized = false ∧ State.reset.faulted = false ∧ State.reset.phase = .idle
    ∧ State.reset.latch.op = none ∧ State.reset.latch.addr = none ∧ State.reset.latch.size = none
    ∧ State.reset.latch.level = none ∧ State.reset.latch.data = none
    ∧ State.reset.work.workAddr = none ∧ State.reset.work.remaining = none ∧ State.reset.work.offset = none
    ∧ State.reset.work.sectors = none ∧ State.reset.work.k = none ∧ State.reset.work.n = none
    ∧ State.reset.work.sr = none ∧ State.reset.work.mon = none ∧ State.reset.work.elapsed = none
    ∧ State.reset.work.iter = none ∧ State.reset.work.lastMs = none
    ∧ State.reset.resp.code = none ∧ State.reset.resp.value = none ∧ State.reset.resp.data = none

/-- R8: outside the legal configurations there is no run, whatever the instruction. -/
def Obligations.IllegalConfigurationHasNoRun : Prop :=
  ∀ (s t : State) (i : Instr), configLegal s.cfg = false → step s = .refused .illegalConfig ∧ exec i s ≠ .next t

/-! ### Requests: what needs no interaction -/

/-- R15, R108, R128: while `faulted = 1` every request is answered `ERR_INTERNAL` with no interaction. -/
def Obligations.FaultedBlockAnswersInternal : Prop :=
  ∀ (s : State) (i : Instr), configLegal s.cfg = true → Quiet s → s.faulted = true → isRequest i = true →
    i.wellFormed = true →
    ∃ t, exec i s = .next t ∧ t.resp = { code := some .errInternal } ∧ t.phase = .faulted ∧ t.faulted = true
      ∧ t.initialized = s.initialized ∧ NoInteraction s t

/-- R15: only reset clears `faulted`. -/
def Obligations.OnlyResetClearsFaulted : Prop :=
  ∀ s t : State, Inv s → s.faulted = true → (∀ rest, s.host ≠ .reset :: rest) → step s = .next t → t.faulted = true

/-- R71: `op = 7` is answered `ERR_PRECOND` with no interaction (while `faulted = 0`); every `level`, `addr` and `size` is
encodable, so no value is rejected by the encoding (a `WRITE` must bring `size` bytes of data, R67). -/
def Obligations.ReservedOpIsAnsweredPrecond : Prop :=
  (∀ r : Request, r.op = 7 → decodeRequest r = .ok .reservedOp7)
    ∧ (∀ s : State, Ready s →
      ∃ t, exec .reservedOp7 s = .next t ∧ Responded s t { code := some .errPrecond } ∧ NoInteraction s t
        ∧ t.initialized = s.initialized)
    ∧ ∀ r : Request, (r.op = 3 → r.data.length = r.size.toNat) → ∃ i, decodeRequest r = .ok i

/-- R114: `IS_INIT` answers `OK` with the flag, with no interaction. -/
def Obligations.IsInitAnswersTheFlag : Prop :=
  ∀ s : State, Ready s →
    ∃ t, exec .isInit s = .next t ∧ Responded s t { code := some .ok, value := some s.initialized }
      ∧ NoInteraction s t ∧ t.initialized = s.initialized

/-- R109: the access checks of `WRITE`, `READ` and `ERASE`, in their order, before any interaction (of an `ERASE` that passes
its own further check, R117). -/
def Obligations.AccessChecksComeFirst : Prop :=
  ∀ (s : State) (i : Instr) (addr size : Word) (data : List Byte), Ready s → data.length = size.toNat →
    (i = .read addr size ∨ i = .write addr size data ∨ (i = .erase addr size ∧ size.toNat ≤ s.cfg.eraseMax)) →
    (s.initialized = false → ∃ t, exec i s = .next t ∧ Responded s t { code := some .errPrecond } ∧ NoInteraction s t)
    ∧ (s.initialized = true → size = 0 →
      ∃ t, exec i s = .next t ∧ Responded s t { code := some .errPrecond } ∧ NoInteraction s t)
    ∧ (s.initialized = true → size ≠ 0 → addr.toNat + size.toNat - 1 > capacity s.cfg - 1 →
      ∃ t, exec i s = .next t ∧ Responded s t { code := some .errAddrRange } ∧ NoInteraction s t)

/-- R117, R130, R148: the checks of `ERASE`, in their order, before any interaction. -/
def Obligations.EraseChecksComeFirst : Prop :=
  ∀ (s : State) (addr size : Word), Ready s →
    (s.initialized = false ∨ size = 0 ∨ size.toNat > s.cfg.eraseMax →
      ∃ t, exec (.erase addr size) s = .next t ∧ Responded s t { code := some .errPrecond } ∧ NoInteraction s t)
    ∧ (s.initialized = true → size ≠ 0 → size.toNat ≤ s.cfg.eraseMax →
      addr.toNat + size.toNat - 1 > capacity s.cfg - 1 →
      ∃ t, exec (.erase addr size) s = .next t ∧ Responded s t { code := some .errAddrRange } ∧ NoInteraction s t)

/-- R118: `SET_PROT` before `INIT` is answered `ERR_PRECOND` with no interaction. -/
def Obligations.SetProtNeedsInit : Prop :=
  ∀ (s : State) (l : Level), Ready s → s.initialized = false →
    ∃ t, exec (.setProt l) s = .next t ∧ Responded s t { code := some .errPrecond } ∧ NoInteraction s t

/-! ### Requests: what they do -/

/-- R112: `INIT`. With every call answered `Ok`, WEL read back decides between `OK` with `initialized <- 1` and
`ERR_VERIFY` with the flag unchanged. -/
def Obligations.InitSetsTheFlagWhenWelReadsBack : Prop :=
  ∀ (s : State) (x y z w : Draw) (rest : List Draw) (b : Byte), Ready s → s.draws = x :: y :: z :: w :: rest →
    Answers x → Answers y → Answers z → Receives [b] w →
    ∃ t, exec .init s = .next t
      ∧ (wel b = true → Responded s t { code := some .ok } ∧ t.initialized = true)
      ∧ (wel b = false → Responded s t { code := some .errVerify } ∧ t.initialized = s.initialized)
      ∧ t.draws = rest
      ∧ t.transcript = s.transcript ++ [⟨.transportInit, .ok []⟩, txOk [s.cfg.opcWren] .both] ++ statusRead s.cfg b

/-- R112, R52, R53: on a device with no write cycle running, `INIT` succeeds and the latch is set. -/
def Obligations.InitSucceedsOnAnIdleDevice : Prop :=
  ∀ (s : State) (x y z w : Draw) (rest : List Draw), Ready s → s.dev.cycle = none →
    s.draws = x :: y :: z :: w :: rest → Faithful x → Faithful y → Faithful z → Faithful w →
    ∃ t, exec .init s = .next t ∧ Responded s t { code := some .ok } ∧ t.initialized = true ∧ t.dev.wel = true

/-- R113: `DEINIT`, the mirror of `INIT`; it runs whatever `initialized` is. -/
def Obligations.DeinitClearsTheFlagWhenWelReadsBack : Prop :=
  ∀ (s : State) (x y z : Draw) (rest : List Draw) (b : Byte), Ready s → s.draws = x :: y :: z :: rest →
    Answers x → Answers y → Receives [b] z →
    ∃ t, exec .deinit s = .next t
      ∧ (wel b = false → Responded s t { code := some .ok } ∧ t.initialized = false)
      ∧ (wel b = true → Responded s t { code := some .errVerify } ∧ t.initialized = s.initialized)
      ∧ t.draws = rest
      ∧ t.transcript = s.transcript ++ [txOk [s.cfg.opcWrdi] .both] ++ statusRead s.cfg b

/-- R118: `SET_PROT` reads the status byte, sets the latch, and writes the byte back with BP alone replaced. -/
def Obligations.SetProtWritesTheLevel : Prop :=
  ∀ (s : State) (l : Level) (x y z w : Draw) (rest : List Draw) (b : Byte), Ready s → s.initialized = true →
    s.draws = x :: y :: z :: w :: rest → Answers x → Receives [b] y → Answers z → Answers w →
    ∃ t, exec (.setProt l) s = .next t ∧ Responded s t { code := some .ok } ∧ t.initialized = true ∧ t.draws = rest
      ∧ t.transcript = s.transcript ++ statusRead s.cfg b
        ++ [txOk [s.cfg.opcWren] .both, txOk [s.cfg.opcWrsr, withBp b (levelCode l)] .both]

/-- R118, R57, R54: with no cycle running and the status register not locked, the level is in the device's BP field when
the status-write cycle ends, and WPEN is as it was. -/
def Obligations.SetProtReachesTheDevice : Prop :=
  ∀ (s : State) (l : Level) (x y z w : Draw) (rest : List Draw), Ready s → s.initialized = true → s.dev.cycle = none →
    s.draws = x :: y :: z :: w :: rest → Faithful x → Faithful y → Faithful z → Faithful w →
    (s.dev.wpen && s.dev.wp && w.wrsrBlocked) = false →
    ∃ t, exec (.setProt l) s = .next t ∧ t.resp = { code := some .ok } ∧ t.dev.wip = true
      ∧ (t.dev.endCycle s.cfg).bp = levelCode l ∧ (t.dev.endCycle s.cfg).wpen = s.dev.wpen
      ∧ (t.dev.endCycle s.cfg).mem = s.dev.mem

/-- R116: `READ` with WIP clear reads the whole range in one `Receive`, across page boundaries. -/
def Obligations.ReadReceivesTheRange : Prop :=
  ∀ (s : State) (addr size : Word) (x y z w : Draw) (rest : List Draw) (b : Byte) (bytes : List Byte),
    Ready s → s.initialized = true → size ≠ 0 → addr.toNat + size.toNat - 1 ≤ capacity s.cfg - 1 →
    s.draws = x :: y :: z :: w :: rest → Answers x → Receives [b] y → wip b = false → Answers z → Receives bytes w →
    bytes.length = size.toNat →
    ∃ t, exec (.read addr size) s = .next t ∧ Responded s t { code := some .ok, data := some bytes }
      ∧ t.initialized = true ∧ t.draws = rest
      ∧ t.transcript = s.transcript ++ statusRead s.cfg b
        ++ [txOk (assemble s.cfg s.cfg.opcRead addr) .start, rxOk bytes .stop]

/-- R116, R126: `READ` with WIP set answers `ERR_BUSY` after the one status read, with no payload transfer. -/
def Obligations.ReadWhileBusyIsRejected : Prop :=
  ∀ (s : State) (addr size : Word) (x y : Draw) (rest : List Draw) (b : Byte),
    Ready s → s.initialized = true → size ≠ 0 → addr.toNat + size.toNat - 1 ≤ capacity s.cfg - 1 →
    s.draws = x :: y :: rest → Answers x → Receives [b] y → wip b = true →
    ∃ t, exec (.read addr size) s = .next t ∧ Responded s t { code := some .errBusy } ∧ t.initialized = true
      ∧ t.draws = rest ∧ t.transcript = s.transcript ++ statusRead s.cfg b

/-- R115, R119, R35, R47: `WRITE` with WIP clear at every wait. The whole transcript: per sub-transfer of R90, the wait,
WREN, the frame, and the payload's bytes of that page, five calls each, in ascending address order. -/
def Obligations.WriteSendsEveryPageInOrder : Prop :=
  ∀ (s : State) (addr size : Word) (data : List Byte) (xs rest : List Draw) (b : Byte),
    Ready s → s.initialized = true → size ≠ 0 → addr.toNat + size.toNat - 1 ≤ capacity s.cfg - 1 →
    data.length = size.toNat → s.draws = xs ++ rest → (∀ x ∈ xs, Receives [b] x) → wip b = false →
    xs.length = 5 * sectorCount s.cfg.pageSize addr.toNat size.toNat →
    ∃ t, exec (.write addr size data) s = .next t ∧ Responded s t { code := some .ok } ∧ t.initialized = true
      ∧ t.draws = rest
      ∧ t.transcript = s.transcript ++ (subTransfers s.cfg.pageSize addr.toNat size.toNat).flatMap fun (a, n) =>
          subTransferLines s.cfg b a ((data.drop (a - addr.toNat)).take n)

/-- R117: `ERASE` runs as `WRITE` does, with `ERASE_VALUE` as every byte. -/
def Obligations.EraseSendsTheEraseValue : Prop :=
  ∀ (s : State) (addr size : Word) (xs rest : List Draw) (b : Byte),
    Ready s → s.initialized = true → size ≠ 0 → size.toNat ≤ s.cfg.eraseMax →
    addr.toNat + size.toNat - 1 ≤ capacity s.cfg - 1 →
    s.draws = xs ++ rest → (∀ x ∈ xs, Receives [b] x) → wip b = false →
    xs.length = 5 * sectorCount s.cfg.pageSize addr.toNat size.toNat →
    ∃ t, exec (.erase addr size) s = .next t ∧ Responded s t { code := some .ok } ∧ t.initialized = true
      ∧ t.draws = rest
      ∧ t.transcript = s.transcript ++ (subTransfers s.cfg.pageSize addr.toNat size.toNat).flatMap fun (a, n) =>
          subTransferLines s.cfg b a (List.replicate n s.cfg.eraseValue)

/-- R101, R125: when WIP stays set and every sample is elapsed, `WRITE` answers `ERR_TIMEOUT` after exactly
`1 + TIMEOUT_MS` status reads and one reference sample, with nothing sent to write. -/
def Obligations.WriteTimesOutWhenWipStays : Prop :=
  ∀ (s : State) (addr size : Word) (data : List Byte) (x y z : Draw) (ts : List Word) (xs rest : List Draw) (b : Byte)
    (t0 : Word),
    Ready s → s.initialized = true → size ≠ 0 → addr.toNat + size.toNat - 1 ≤ capacity s.cfg - 1 →
    data.length = size.toNat → s.draws = x :: y :: z :: (xs ++ rest) → Answers x → Receives [b] y → Shows t0 z →
    wip b = true → PollDraws b ts xs → AllElapsed t0 ts → ts.length = s.cfg.timeoutMs →
    ∃ t, exec (.write addr size data) s = .next t ∧ Responded s t { code := some .errTimeout } ∧ t.initialized = true
      ∧ t.draws = rest
      ∧ t.transcript = s.transcript ++ statusRead s.cfg b ++ [⟨.now, .time t0⟩]
        ++ ts.flatMap fun u => ⟨.now, .time u⟩ :: statusRead s.cfg b

/-- R102, R103, R128: with WIP set and a clock that never advances, `WRITE` makes `ITER_CEILING + 1` clock reads and then
faults: `ERR_INTERNAL`, phase `FAULTED`. -/
def Obligations.StalledClockFaultsTheBlock : Prop :=
  ∀ (s : State) (addr size : Word) (data : List Byte) (x y : Draw) (zs rest : List Draw) (b : Byte) (t0 : Word),
    Ready s → s.initialized = true → size ≠ 0 → addr.toNat + size.toNat - 1 ≤ capacity s.cfg - 1 →
    data.length = size.toNat → s.draws = x :: y :: (zs ++ rest) → Answers x → Receives [b] y → wip b = true →
    (∀ z ∈ zs, Shows t0 z) → zs.length = s.cfg.iterCeiling + 1 →
    ∃ t, exec (.write addr size data) s = .next t ∧ t.phase = .faulted ∧ t.faulted = true
      ∧ t.resp = { code := some .errInternal } ∧ t.initialized = true ∧ t.draws = rest
      ∧ t.transcript = s.transcript ++ statusRead s.cfg b
        ++ List.replicate (s.cfg.iterCeiling + 1) ⟨.now, .time t0⟩

/-! ### Commands: what they do -/

/-- R52 (and R84, R85): WREN sets and WRDI clears the device's latch, in one call; whether it is accepted during a cycle is
drawn, and one that is not leaves WEL as it was.
That a command can be run on its own is the model's choice (log 17). -/
def Obligations.LatchCommandsSetAndClearWel : Prop :=
  ∀ (s : State) (x : Draw) (rest : List Draw), Ready s → s.draws = x :: rest → Answers x →
    (∃ t, exec .wren s = .next t ∧ Transacted s t (.ok []) ∧ t.work = s.work ∧ t.draws = rest
      ∧ t.transcript = s.transcript ++ [txOk [s.cfg.opcWren] .both]
      ∧ (((s.dev.passTime s.cfg x).wip && !x.latchInCycle) = false → t.dev.wel = true)
      ∧ (((s.dev.passTime s.cfg x).wip && !x.latchInCycle) = true → t.dev.wel = (s.dev.passTime s.cfg x).wel))
    ∧ (∃ t, exec .wrdi s = .next t ∧ Transacted s t (.ok []) ∧ t.work = s.work ∧ t.draws = rest
      ∧ t.transcript = s.transcript ++ [txOk [s.cfg.opcWrdi] .both]
      ∧ (((s.dev.passTime s.cfg x).wip && !x.latchInCycle) = false → t.dev.wel = false)
      ∧ (((s.dev.passTime s.cfg x).wip && !x.latchInCycle) = true → t.dev.wel = (s.dev.passTime s.cfg x).wel))

/-- R86, R53: RDSR puts the received byte into `sr`; the device's own byte when the device answers, also while WIP = 1.
That a command can be run on its own is the model's choice (log 17). -/
def Obligations.RdsrReadsTheStatusByte : Prop :=
  ∀ (s : State) (x y : Draw) (rest : List Draw), Ready s → s.draws = x :: y :: rest → Answers x → Answers y →
    ∃ t b, exec .rdsr s = .next t ∧ Transacted s t (.ok [b]) ∧ t.work = { s.work with sr := some b } ∧ t.draws = rest
      ∧ t.transcript = s.transcript ++ statusRead s.cfg b
      ∧ (∀ b', y.rx = some [b'] → b = b') ∧ (y.rx = none → b = t.dev.status)

/-- R87, R57: WRSR sends the whole byte in one call. Accepted, which WIP = 0 and WEL = 1 make it, it leaves a cycle whose end
commits BP and WPEN and clears WEL, the array as the cycle that ran already leaves it; ignored, the cycle is as it was.
That acceptance during a cycle is drawn is U13 (log 13), and so is whether WPEN with WP blocks it (log 14); that one accepted
then joins the running cycle's record is the model's choice (log 13), and so is which BP protects the bytes of that record
(log 38) and a command run on its own (log 17). -/
def Obligations.WrsrSendsTheByte : Prop :=
  ∀ (s : State) (v : Byte) (x : Draw) (rest : List Draw), Ready s → s.draws = x :: rest → Answers x →
    ∃ t, exec (.wrsr v) s = .next t ∧ Transacted s t (.ok []) ∧ t.work = s.work ∧ t.draws = rest
      ∧ t.transcript = s.transcript ++ [txOk [s.cfg.opcWrsr, v] .both]
      ∧ (((s.dev.passTime s.cfg x).wip = false ∨ x.wrsrInCycle = true) → (s.dev.passTime s.cfg x).wel = true →
        ((s.dev.passTime s.cfg x).wpen && (s.dev.passTime s.cfg x).wp && x.wrsrBlocked) = false →
        t.dev.wip = true ∧ (t.dev.endCycle s.cfg).bp = bp v ∧ (t.dev.endCycle s.cfg).wpen = wpen v
          ∧ (t.dev.endCycle s.cfg).wel = false
          ∧ (t.dev.endCycle s.cfg).mem = ((s.dev.passTime s.cfg x).endCycle s.cfg).mem)
      ∧ ((((s.dev.passTime s.cfg x).wip = true ∧ x.wrsrInCycle = false) ∨ (s.dev.passTime s.cfg x).wel = false
          ∨ ((s.dev.passTime s.cfg x).wpen && (s.dev.passTime s.cfg x).wp && x.wrsrBlocked) = true) →
        t.dev.cycle = (s.dev.passTime s.cfg x).cycle)

/-- R78, R79, R80, R56: READ in each format sends the frame, then receives `m` bytes: the device's array from the address
on (continuing at 0 past the top) when it answers itself and no cycle runs.
That WIP is looked at when the bytes are received, so that a cycle may end between frame and data phase, is the model's reading
of R56 (log 36). That a command can be run on its own is the model's choice (log 17), and so is that one whose range passes the
top of the array, outside R78's bound, runs (log 39). -/
def Obligations.ReadCommandsReceive : Prop :=
  ∀ (s : State) (i : Instr) (m a : Nat) (x y : Draw) (rest : List Draw), Ready s → 1 ≤ m → formatApplies s.cfg i = true →
    ((∃ a, i = .readA1 a m) ∨ (∃ a, i = .readA2 a m) ∨ (∃ a, i = .readA3 a m)) → commandAddress i = some a →
    s.draws = x :: y :: rest → Answers x → Answers y →
    ∃ t f bytes, exec i s = .next t ∧ Transacted s t (.ok bytes) ∧ t.work = s.work ∧ t.draws = rest
      ∧ bytes.length = m ∧ encode s.cfg i = .command ⟨f, m⟩
      ∧ t.transcript = s.transcript ++ [txOk f .start, rxOk bytes .stop]
      ∧ (∀ l, y.rx = some l → l.length = m → bytes = l)
      ∧ (y.rx = none → t.dev.wip = false →
        bytes = (List.range m).map fun j => t.dev.byteAt ((a + j) % capacity s.cfg))

/-- R81, R82, R83, R54, R55: WRITE in each format sends the frame, then the payload; when the device accepts it, a cycle is
pending for exactly the page addresses of the payload; with WEL clear, or while another cycle runs, it is ignored.
That the cycle is pending from chip-select deassertion on (R54), and that a payload longer than a page wraps in it (R55), are
facts the spec marks as general knowledge (log 35).
That a command can be run on its own is the model's choice (log 17), and so is that one outside R81's bound runs (log 39) and
where a page past the array's end wraps (log 16). -/
def Obligations.WriteCommandsSend : Prop :=
  ∀ (s : State) (i : Instr) (p : List Byte) (a : Nat) (x y : Draw) (rest : List Draw), Ready s → p ≠ [] →
    formatApplies s.cfg i = true →
    ((∃ a, i = .writeA1 a p) ∨ (∃ a, i = .writeA2 a p) ∨ (∃ a, i = .writeA3 a p)) → commandAddress i = some a →
    s.draws = x :: y :: rest → Answers x → Answers y →
    ∃ t f, exec i s = .next t ∧ Transacted s t (.ok []) ∧ t.work = s.work ∧ t.draws = rest
      ∧ encode s.cfg i = .command ⟨f ++ p, 0⟩
      ∧ t.transcript = s.transcript ++ [txOk f .start, txOk p .stop]
      ∧ (s.dev.cycle = none → s.dev.wel = true →
        t.dev.cycle = some ⟨p.zipIdx.map fun (v, j) => (pageAddress s.cfg a j, v), none⟩)
      ∧ (s.dev.cycle = none → s.dev.wel = false → t.dev.cycle = none)
      ∧ (s.dev.cycle ≠ none → x.cycleEnds = false → y.cycleEnds = false → t.dev.cycle = s.dev.cycle)

/-- R77: a command whose frame or data phase fails answers `Error` with no later call, the block's registers as they were; and,
by R39 and R54, the device's array is as time left it: what of a failing call reached the device is drawn (log 12), and bytes
that landed are only pending until their cycle ends (R54: general knowledge, log 35).
That a command can be run on its own is the model's choice (log 17). -/
def Obligations.FailedCommandAnswersError : Prop :=
  ∀ (s : State) (i : Instr) (x : Draw) (rest : List Draw), Ready s → isRequest i = false → i.wellFormed = true →
    formatApplies s.cfg i = true → s.draws = x :: rest →
    (x.reply = .error →
      ∃ t call, exec i s = .next t ∧ Transacted s t .error ∧ t.work = s.work ∧ t.draws = rest
        ∧ frameCall s.cfg i = some call ∧ t.transcript = s.transcript ++ [⟨call, .error⟩]
        ∧ t.dev.mem = (s.dev.passTime s.cfg x).mem)
    ∧ ∀ (d : Call) (y : Draw) (rest' : List Draw), rest = y :: rest' → Answers x → y.reply = .error → dataCall i = some d →
      ∃ t call, exec i s = .next t ∧ Transacted s t .error ∧ t.work = s.work ∧ t.draws = rest'
        ∧ frameCall s.cfg i = some call ∧ t.transcript = s.transcript ++ [⟨call, .ok []⟩, ⟨d, .error⟩]
        ∧ t.dev.mem = ((s.dev.passTime s.cfg x).passTime s.cfg y).mem

/-! ### Frames -/

/-- R14, R18, R77, R7: a bare command changes no flag, no latched or response register, no configuration, and of the
working registers only `sr`, and that only by RDSR; a faulted block only answers `ERR_INTERNAL`. -/
def Obligations.CommandsKeepTheBlock : Prop :=
  ∀ (i : Instr) (s t : State), isRequest i = false → exec i s = .next t →
    t.cfg = s.cfg ∧ t.initialized = s.initialized ∧ t.faulted = s.faulted ∧ t.host = s.host
    ∧ (s.faulted = false → t.latch = s.latch ∧ t.resp = s.resp ∧ { t.work with sr := s.work.sr } = s.work
      ∧ (i ≠ .rdsr → t.work = s.work))
    ∧ (s.faulted = true → t.resp = { code := some .errInternal } ∧ t.latch = {} ∧ t.work = {} ∧ t.phase = .faulted
      ∧ NoInteraction s t)

/-- R14, R18, R19, R131, R132, R7: what a request leaves unchanged: configuration and host; `initialized` but by `INIT`
and `DEINIT`; `faulted` but by `WRITE` and `ERASE`; `resp_value` is `IS_INIT`'s and `resp_data` is `READ`'s; and once it
has ended, no operation register holds a value. -/
def Obligations.RequestsKeepTheRest : Prop :=
  ∀ (i : Instr) (s t : State), isRequest i = true → exec i s = .next t →
    t.cfg = s.cfg ∧ t.host = s.host
    ∧ (i ≠ .init → i ≠ .deinit → t.initialized = s.initialized)
    ∧ ((∀ a n d, i ≠ .write a n d) → (∀ a n, i ≠ .erase a n) → t.faulted = s.faulted)
    ∧ (t.resp.value.isSome → i = .isInit) ∧ (t.resp.data.isSome → ∃ a n, i = .read a n)
    ∧ ((∀ op p, t.phase ≠ .busy op p) → t.latch = {} ∧ t.work = {} ∧ t.resp.code.isSome)

/-- R40, R44, R55: EVERY byte of the array is unchanged by every instruction, but the bytes it stores to (`storesTo`, by
the address functions its meaning uses) and those of a write cycle already pending; and nothing else becomes pending. -/
def Obligations.ArrayChangesOnlyWhereStored : Prop :=
  ∀ (i : Instr) (s t : State) (a : Nat), exec i s = .next t → ¬ storesTo s.cfg i a → ¬ Pending s.dev a →
    t.dev.byteAt a = s.dev.byteAt a ∧ ¬ Pending t.dev a

/-- R57, R54: an instruction changes the device's BP and WPEN only by ending a status-write cycle that was pending.
That a WRSR starts a cycle, and that it is the cycle's end that commits BP and WPEN and nothing else, are facts the spec marks as
general knowledge (log 35). -/
def Obligations.ProtectionBitsChangeOnlyByACycle : Prop :=
  ∀ (i : Instr) (s t : State), exec i s = .next t → (∀ y, s.dev.cycle = some y → y.status = none) →
    t.dev.bp = s.dev.bp ∧ t.dev.wpen = s.dev.wpen

/-- R14: over a step, `initialized` changes only by a reset or by an `INIT` or `DEINIT` that answers `OK`: to 1 by the
one, to 0 by the other. -/
def Obligations.InitializedChangesOnlyByInitOrDeinit : Prop :=
  ∀ s t : State, Inv s → step s = .next t → t.initialized ≠ s.initialized → (∀ rest, s.host ≠ .reset :: rest) →
    t.resp = { code := some .ok } ∧ t.phase = .idle
    ∧ ((∃ p, s.phase = .busy (if t.initialized then .init else .deinit) p)
      ∨ ∃ e rest, s.host = .present e :: rest ∧ decode s.cfg e = .ok (if t.initialized then .init else .deinit))

/-! ### The device -/

/-- R54, R55: a WRITE command whose payload stays within its page and the array, accepted by the device, leaves after its
cycle the payload at its addresses, ascending, where they are not protected, and every other byte as it was. -/
def Obligations.AcceptedWriteIsCommitted : Prop :=
  ∀ (c : Config) (d : Device) (s : Nat) (p : List Byte), configLegal c = true → d.cycle = none → d.wel = true →
    s % c.pageSize + p.length ≤ c.pageSize → s + p.length ≤ capacity c →
    (∀ j v, p[j]? = some v → d.writeProtected c (s + j) = false →
      ((d.startWrite c s p fun _ => true).endCycle c).byteAt (s + j) = v)
    ∧ (∀ a, a < s ∨ s + p.length ≤ a →
      ((d.startWrite c s p fun _ => true).endCycle c).byteAt a = d.byteAt a)
    ∧ ((d.startWrite c s p fun _ => true).endCycle c).wip = false
    ∧ ((d.startWrite c s p fun _ => true).endCycle c).wel = false

/-- R42, R43, R54, R55: the end of a write cycle leaves every protected byte as it was; with `DEVICE_BP_NEEDS_WP` and the WP
pin deasserted no address is protected, else the level's upper part of the array is.
That protection, the WP pin's level included, is looked at when the cycle ends is the model's reading of R55 (log 15), and that
the BP looked at is the one from before the end, also where the cycle brings a new one, is the model's choice (log 38). R42's
ranges end at `CAPACITY - 1`; past them the statement is about the model's function alone, for the invariant lists nothing
there. -/
def Obligations.ProtectedBytesSurviveACycle : Prop :=
  ∀ (c : Config) (d : Device) (a : Nat),
    (d.writeProtected c a = true → (d.endCycle c).byteAt a = d.byteAt a)
    ∧ (d.writeProtected c a = true ↔ (c.bpNeedsWp = true → d.wp = true)
      ∧ ((d.bp = 1 ∧ 3 * capacity c / 4 ≤ a) ∨ (d.bp = 2 ∧ capacity c / 2 ≤ a) ∨ d.bp = 3))

/-- R59: the round trip. A `WRITE` that answers `OK`, then a `READ` of the same range, the device answering for itself,
the last cycle ended before the `READ`'s status read, no address of the range protected: the `READ` answers `OK` with the
data. -/
def Obligations.ReadAfterWriteReturnsTheData : Prop :=
  ∀ (s t : State) (addr size : Word) (data : List Byte), Ready s →
    (∀ x ∈ s.draws, x.rx = none ∧ x.wpPin = none) →
    (∀ a, addr.toNat ≤ a → a < addr.toNat + size.toNat → (s.dev.endCycle s.cfg).writeProtected s.cfg a = false) →
    exec (.write addr size data) s = .next t → t.resp = { code := some .ok } →
    4 ≤ t.draws.length → (∀ x ∈ t.draws.take 4, Answers x) → (t.dev.cycle = none ∨ t.draw.cycleEnds = true) →
    ∃ u, exec (.read addr size) t = .next u ∧ u.resp = { code := some .ok, data := some data }

/-! ### The invariant -/

/-- R33, R139: the invariant holds after reset. -/
def Obligations.ResetMeetsTheInvariant : Prop := Inv State.reset

/-- R14 to R19, R41, R91: every step keeps the invariant: flags, phase and registers agree, the sub-transfer in progress
stays inside its page and range, the device's array keeps its canonical form and its bounds. -/
def Obligations.EveryStepKeepsTheInvariant : Prop :=
  ∀ s t : State, Inv s → step s = .next t → Inv t

/-- R18, R19, U21: under the invariant no operation register is read before it is written: no step faults. -/
def Obligations.NoUnwrittenRegisterIsRead : Prop :=
  ∀ (s : State) (f : Fault), Inv s → step s ≠ .fault f
end

