-- ==== Sys2Proof/Laws/Memory.lean ====
section
/-! SUPPORT. Memory: the array's operations keep the canonical form; read after write. -/

namespace Sys2Proof.Machine

theorem Memory.wf_cons {c : Host.Cell} {m : Memory} :
    Memory.wf (c :: m) = true ↔ (∀ d ∈ m.head?, c.1 < d.1) ∧ m.wf = true := by
  cases m <;> simp [Memory.wf]

theorem Memory.write_head (m : Memory) (a : Nat) (v : Byte) :
    ∀ d ∈ (m.write a v).head?, d.1 = a ∨ d ∈ m.head? := by
  cases m with
  | nil => simp [Memory.write]
  | cons c m =>
    obtain ⟨b, w⟩ := c
    unfold Memory.write
    split
    · simp
    · split <;> simp

/-- A write keeps the canonical form. -/
theorem Memory.wf_write {m : Memory} (h : m.wf = true) (a : Nat) (v : Byte) : (m.write a v).wf = true := by
  induction m with
  | nil => rfl
  | cons c m ih =>
    obtain ⟨b, w⟩ := c
    rw [Memory.wf_cons] at h
    unfold Memory.write
    split
    · rename_i hab
      exact Memory.wf_cons.2 ⟨by simpa using hab, Memory.wf_cons.2 h⟩
    · split
      · rename_i hab
        subst hab
        exact Memory.wf_cons.2 h
      · refine Memory.wf_cons.2 ⟨fun d hd => ?_, ih h.2⟩
        obtain hd | hd := Memory.write_head m a v d hd
        · simp only; omega
        · exact h.1 d hd

/-- A write adds no address but its own. -/
theorem Memory.mem_write {m : Memory} {a : Nat} {v : Byte} {x : Host.Cell} (h : x ∈ m.write a v) :
    x = (a, v) ∨ x ∈ m := by
  induction m with
  | nil => simpa [Memory.write] using h
  | cons c m ih =>
    obtain ⟨b, w⟩ := c
    unfold Memory.write at h
    split at h
    · simpa using h
    · split at h
      · rcases List.mem_cons.1 h with h | h
        · exact .inl h
        · exact .inr (List.mem_cons_of_mem _ h)
      · rcases List.mem_cons.1 h with h | h
        · exact .inr (h ▸ List.mem_cons_self)
        · exact (ih h).imp_right (List.mem_cons_of_mem _)

/-- Read after write, at the address written. -/
theorem Memory.read_write_same (m : Memory) (a : Nat) (v : Byte) : (m.write a v).read a = some v := by
  induction m with
  | nil => simp [Memory.write, Memory.read]
  | cons c m ih =>
    obtain ⟨b, w⟩ := c
    unfold Memory.write
    split
    · simp [Memory.read]
    · split
      · simp [Memory.read]
      · rename_i _ h
        simp [Memory.read, Ne.symm h, ih]

/-- Read after write, at any other address (in canonical form: a write at `a` does not pass over an entry for `a'`). -/
theorem Memory.read_write_other (m : Memory) {a a' : Nat} (h : a' ≠ a) (v : Byte) :
    (m.write a v).read a' = m.read a' := by
  induction m with
  | nil => simp [Memory.write, Memory.read, Ne.symm h]
  | cons c m ih =>
    obtain ⟨b, w⟩ := c
    unfold Memory.write
    split
    · simp [Memory.read, Ne.symm h]
    · split
      · rename_i hab
        simp [Memory.read, ← hab, Ne.symm h]
      · simp [Memory.read, ih]

end Sys2Proof.Machine
end

