-- ==== Sys2Proof/Laws/Device.lean ====
section
/-! SUPPORT. Device: what each device operation can do, and that each keeps the device's invariant. -/

namespace Sys2Proof.Machine

variable {c : Config} {d : Device} {x : Draw}

/-! ### The write cycle -/

theorem commits_wf (ws : List (Nat × Byte)) : ∀ {m : Memory}, m.wf = true → (ws.foldl (d.commitByte c) m).wf = true := by
  induction ws with
  | nil => exact fun h => h
  | cons w ws ih =>
    intro m h
    refine ih ?_
    unfold Device.commitByte
    split
    · exact h
    · exact Memory.wf_write h _ _

theorem commits_bounded {n : Nat} (ws : List (Nat × Byte)) (hw : Bounded n ws) :
    ∀ {m : Memory}, Bounded n m → Bounded n (ws.foldl (d.commitByte c) m) := by
  induction ws with
  | nil => exact fun h => h
  | cons w ws ih =>
    intro m h
    refine ih (fun y hy => hw y (List.mem_cons_of_mem _ hy)) ?_
    unfold Device.commitByte
    split
    · exact h
    · intro y hy
      obtain rfl | hy := Memory.mem_write hy
      · exact hw w List.mem_cons_self
      · exact h y hy

/-- A commit changes no address that is not in its record. -/
theorem commits_read {a : Nat} (ws : List (Nat × Byte)) (ha : ∀ w ∈ ws, w.1 ≠ a) :
    ∀ m : Memory, Memory.read (ws.foldl (d.commitByte c) m) a = m.read a := by
  induction ws with
  | nil => exact fun _ => rfl
  | cons w ws ih =>
    intro m
    rw [List.foldl_cons, ih (fun y hy => ha y (List.mem_cons_of_mem _ hy))]
    unfold Device.commitByte
    split
    · rfl
    · exact Memory.read_write_other m (Ne.symm (ha w List.mem_cons_self)) _

/-- The end of a cycle changes no byte outside its record. -/
theorem Device.endCycle_byteAt {a : Nat} (ha : ¬ Pending d a) : (d.endCycle c).byteAt a = d.byteAt a := by
  unfold Device.endCycle
  cases h : d.cycle with
  | none => rfl
  | some y =>
    refine congrArg (Option.getD · _) (commits_read _ (fun w hw hwa => ha ⟨y, h, w.2, ?_⟩) _)
    rw [← hwa]; exact hw

theorem Device.endCycle_cycle : (d.endCycle c).cycle = none := by
  unfold Device.endCycle
  cases h : d.cycle with
  | none => exact h
  | some y => rfl

theorem DeviceInv.endCycle (h : DeviceInv c d) : DeviceInv c (d.endCycle c) := by
  unfold Device.endCycle
  cases hc : d.cycle with
  | none => exact h
  | some y =>
    exact ⟨commits_wf _ h.canonical, commits_bounded _ (h.pending y hc) h.bounded, fun _ h => nomatch h⟩

/-! ### Time -/

/-- The three things time can do: move the WP pin, and then end the cycle or not. -/
theorem Device.passTime_cases :
    d.passTime c x = { d with wp := x.wpPin.getD d.wp }
      ∨ d.passTime c x = { d with wp := x.wpPin.getD d.wp }.endCycle c := by
  unfold Device.passTime
  split
  · exact .inr rfl
  · exact .inl rfl

theorem DeviceInv.passTime (h : DeviceInv c d) : DeviceInv c (d.passTime c x) := by
  have h' : DeviceInv c { d with wp := x.wpPin.getD d.wp } := ⟨h.canonical, h.bounded, h.pending⟩
  obtain e | e := Device.passTime_cases (c := c) (d := d) (x := x) <;> rw [e]
  · exact h'
  · exact h'.endCycle

theorem Device.passTime_byteAt {a : Nat} (ha : ¬ Pending d a) : (d.passTime c x).byteAt a = d.byteAt a := by
  obtain e | e := Device.passTime_cases (c := c) (d := d) (x := x) <;> rw [e]
  · rfl
  · exact Device.endCycle_byteAt (d := { d with wp := x.wpPin.getD d.wp }) ha

theorem Device.passTime_cycle : (d.passTime c x).cycle = d.cycle ∨ (d.passTime c x).cycle = none := by
  obtain e | e := Device.passTime_cases (c := c) (d := d) (x := x) <;> rw [e]
  · exact .inl rfl
  · exact .inr Device.endCycle_cycle

theorem Device.passTime_pending {a : Nat} (h : Pending (d.passTime c x) a) : Pending d a := by
  obtain ⟨y, hy, hv⟩ := h
  obtain e | e := Device.passTime_cycle (c := c) (d := d) (x := x)
  · exact ⟨y, e ▸ hy, hv⟩
  · rw [e] at hy; cases hy

/-! ### Commands -/

theorem pageAddress_lt (c : Config) (s j : Nat) : pageAddress c s j < capacity c :=
  Nat.mod_lt _ (Nat.two_pow_pos _)

theorem pageWrites_mem {s : Nat} {p : List Byte} {keep : Nat → Bool} {w : Nat × Byte} (h : w ∈ pageWrites c s p keep) :
    ∃ j < p.length, w.1 = pageAddress c s j := by
  unfold pageWrites at h
  obtain ⟨⟨b, j⟩, hj, h⟩ := List.mem_filterMap.1 h
  have := List.mem_zipIdx hj
  simp only [Option.ite_none_right_eq_some, Option.some.injEq] at h
  exact ⟨j, by omega, h.2 ▸ rfl⟩

theorem Device.pendingWrites_pending {w : Nat × Byte} (h : w ∈ d.pendingWrites) : Pending d w.1 := by
  unfold Device.pendingWrites at h
  cases hc : d.cycle with
  | none => rw [hc] at h; cases h
  | some y => rw [hc] at h; exact ⟨y, hc, w.2, h⟩

/-- Everything a WRSR can do (R57, U13, U22): ignored, it does nothing; accepted, BP and WPEN are pending beside what was,
and all else is as it was. -/
theorem Device.startStatusWrite_spec (v : Byte) :
    (d.acceptsStatusWrite x = false ∧ d.startStatusWrite x v = d)
      ∨ (d.acceptsStatusWrite x = true
        ∧ d.startStatusWrite x v =
          { d with cycle := some ⟨d.pendingWrites, some (Sys2Proof.Machine.bp v, Sys2Proof.Machine.wpen v)⟩ }) := by
  unfold Device.startStatusWrite
  split
  · exact .inr ⟨‹_›, rfl⟩
  · exact .inl ⟨Bool.eq_false_iff.2 ‹¬ _›, rfl⟩

/-- What a command can do to the device (R52, R55, R57): the array is unchanged, and the record of a cycle it starts or
joins holds only addresses the command stores to and those that were pending. -/
theorem Device.obey_spec (keep : Nat → Bool) (i : Instr) :
    (d.obey c x keep i).mem = d.mem
      ∧ ((d.obey c x keep i).cycle = d.cycle
        ∨ ∃ y, (d.obey c x keep i).cycle = some y ∧ ∀ w ∈ y.writes,
          (isRequest i = false ∧ storesTo c i w.1) ∨ Pending d w.1) := by
  have wr (s : Nat) (p : List Byte) : (d.startWrite c s p keep).mem = d.mem
      ∧ ((d.startWrite c s p keep).cycle = d.cycle
        ∨ ∃ y, (d.startWrite c s p keep).cycle = some y ∧ ∀ w ∈ y.writes, ∃ j < p.length, w.1 = pageAddress c s j) := by
    unfold Device.startWrite
    split
    · exact ⟨rfl, .inr ⟨_, rfl, fun w hw => pageWrites_mem hw⟩⟩
    · exact ⟨rfl, .inl rfl⟩
  have lt (v : Bool) : (d.setLatch x v).mem = d.mem ∧ (d.setLatch x v).cycle = d.cycle := by
    unfold Device.setLatch; split <;> exact ⟨rfl, rfl⟩
  have keepOnly {e : Device} {P : Nat → Prop} (h : e.mem = d.mem ∧ e.cycle = d.cycle) : e.mem = d.mem
      ∧ (e.cycle = d.cycle ∨ ∃ y, e.cycle = some y ∧ ∀ w ∈ y.writes, (isRequest i = false ∧ P w.1) ∨ Pending d w.1) :=
    ⟨h.1, .inl h.2⟩
  cases i with
  | writeA1 a p => exact (wr a.toNat p).imp_right (.imp_right fun ⟨y, h, hw⟩ => ⟨y, h, fun w h => .inl ⟨rfl, hw w h⟩⟩)
  | writeA2 a p => exact (wr a.toNat p).imp_right (.imp_right fun ⟨y, h, hw⟩ => ⟨y, h, fun w h => .inl ⟨rfl, hw w h⟩⟩)
  | writeA3 a p => exact (wr a.toNat p).imp_right (.imp_right fun ⟨y, h, hw⟩ => ⟨y, h, fun w h => .inl ⟨rfl, hw w h⟩⟩)
  | wren => exact keepOnly (lt true)
  | wrdi => exact keepOnly (lt false)
  | wrsr v =>
    obtain ⟨-, h⟩ | ⟨-, h⟩ := Device.startStatusWrite_spec (d := d) (x := x) v <;> rw [Device.obey, h]
    · exact keepOnly ⟨rfl, rfl⟩
    · exact ⟨rfl, .inr ⟨_, rfl, fun w hw => .inr (Device.pendingWrites_pending hw)⟩⟩
  | _ => exact keepOnly ⟨rfl, rfl⟩

/-- The addresses a transmitted command could store to: those of the command its bytes are. -/
def HeardStores (c : Config) (d : Device) (bytes : List Byte) (cs : CsMode) (a : Nat) : Prop :=
  ∃ i, decodeWire c ⟨if assertBefore cs then bytes else if d.cs then d.heard ++ bytes else [], 0⟩ = .ok i
    ∧ isRequest i = false ∧ storesTo c i a

theorem Device.finish_spec (keep : Nat → Bool) (b : List Byte) :
    (d.finish c x keep b).mem = d.mem
      ∧ ((d.finish c x keep b).cycle = d.cycle
        ∨ ∃ y, (d.finish c x keep b).cycle = some y
            ∧ ∀ w ∈ y.writes,
              (∃ i, decodeWire c ⟨b, 0⟩ = .ok i ∧ isRequest i = false ∧ storesTo c i w.1) ∨ Pending d w.1) := by
  unfold Device.finish
  cases h : decodeWire c ⟨b, 0⟩ with
  | error e => exact ⟨rfl, .inl rfl⟩
  | ok i =>
    obtain ⟨hm, hc⟩ := Device.obey_spec (c := c) (d := d) (x := x) keep i
    exact ⟨hm, hc.imp_right fun ⟨y, hy, hw⟩ => ⟨y, hy, fun w h => (hw w h).imp_left fun h => ⟨i, rfl, h⟩⟩⟩

theorem Device.deliver_spec (keep : Nat → Bool) (b : List Byte) (cs : CsMode) :
    (d.deliver c x keep b cs).mem = d.mem
      ∧ ((d.deliver c x keep b cs).cycle = d.cycle
        ∨ ∃ y, (d.deliver c x keep b cs).cycle = some y ∧ ∀ w ∈ y.writes, HeardStores c d b cs w.1 ∨ Pending d w.1) := by
  unfold Device.deliver
  dsimp only
  split
  · exact Device.finish_spec keep _
  · exact ⟨rfl, .inl rfl⟩

theorem Device.transmit_spec (b : List Byte) (cs : CsMode) :
    (d.transmit c x b cs).mem = d.mem
      ∧ ((d.transmit c x b cs).cycle = d.cycle
        ∨ ∃ y, (d.transmit c x b cs).cycle = some y ∧ ∀ w ∈ y.writes, HeardStores c d b cs w.1 ∨ Pending d w.1) := by
  unfold Device.transmit
  split
  · split
    · exact Device.deliver_spec _ b cs
    · exact ⟨rfl, .inl rfl⟩
  · exact Device.deliver_spec _ b cs

/-- What one interaction can do to the device's array and cycle: time passes, then a transmitted command may start or join a
cycle whose record holds only addresses it stores to and those that were pending. Nothing else stores (R40). -/
theorem Device.interact_spec (k : Nat) (call : Call) :
    (d.interact c k x call).2.mem = (d.passTime c x).mem
      ∧ ((d.interact c k x call).2.cycle = (d.passTime c x).cycle
        ∨ ∃ b cs, call = .transmit b cs ∧ ∃ y, (d.interact c k x call).2.cycle = some y
            ∧ ∀ w ∈ y.writes, HeardStores c (d.passTime c x) b cs w.1 ∨ Pending (d.passTime c x) w.1) := by
  cases call with
  | now => exact ⟨rfl, .inl rfl⟩
  | transportInit => unfold Device.interact; dsimp only; split <;> exact ⟨rfl, .inl rfl⟩
  | receive n cs =>
    have h (e : Device) : (e.afterReceive cs).mem = e.mem ∧ (e.afterReceive cs).cycle = e.cycle := by
      unfold Device.afterReceive; split <;> [skip; split] <;> exact ⟨rfl, rfl⟩
    unfold Device.interact
    dsimp only
    split
    · exact ⟨rfl, .inl rfl⟩
    · exact ⟨(h _).1, .inl (h _).2⟩
  | transmit b cs =>
    have h := Device.transmit_spec (c := c) (d := d.passTime c x) (x := x) b cs
    unfold Device.interact
    dsimp only
    split <;> exact h.imp_right (.imp_right fun ⟨y, hy⟩ => ⟨b, cs, rfl, y, hy⟩)

theorem storesTo_command_lt {i : Instr} {a : Nat} (hi : isRequest i = false) (h : storesTo c i a) : a < capacity c := by
  cases i <;> simp only [storesTo] at h <;> first
    | exact h.elim
    | (obtain ⟨j, -, rfl⟩ := h; exact pageAddress_lt c _ j)
    | cases hi

/-- One interaction keeps the device's invariant. -/
theorem DeviceInv.interact (h : DeviceInv c d) (k : Nat) (call : Call) : DeviceInv c (d.interact c k x call).2 := by
  have hp : DeviceInv c (d.passTime c x) := h.passTime
  obtain ⟨hm, hc⟩ := Device.interact_spec (c := c) (d := d) (x := x) k call
  refine ⟨hm ▸ hp.canonical, hm ▸ hp.bounded, fun y hy => ?_⟩
  obtain hc | ⟨b, cs, -, z, hz, hw⟩ := hc
  · exact hp.pending y (hc ▸ hy)
  · rw [hz] at hy
    cases hy
    intro w hwm
    obtain ⟨i, -, hi, hs⟩ | ⟨z, hz, v, hv⟩ := hw w hwm
    · exact storesTo_command_lt hi hs
    · exact hp.pending z hz (w.1, v) hv

end Sys2Proof.Machine
end

