-- ==== Sys2Proof/Laws/State.lean ====
section
/-! SUPPORT. State: what each named update of the state does to each field, so that no proof unfolds one. -/

namespace Sys2Proof.Machine

@[simp] theorem State.spend_cfg (s : State) : (s.spend).cfg = s.cfg := rfl
@[simp] theorem State.spend_initialized (s : State) : (s.spend).initialized = s.initialized := rfl
@[simp] theorem State.spend_faulted (s : State) : (s.spend).faulted = s.faulted := rfl
@[simp] theorem State.spend_phase (s : State) : (s.spend).phase = s.phase := rfl
@[simp] theorem State.spend_latch (s : State) : (s.spend).latch = s.latch := rfl
@[simp] theorem State.spend_work (s : State) : (s.spend).work = s.work := rfl
@[simp] theorem State.spend_resp (s : State) : (s.spend).resp = s.resp := rfl
@[simp] theorem State.spend_txn (s : State) : (s.spend).txn = s.txn := rfl
@[simp] theorem State.spend_dev (s : State) : (s.spend).dev = s.dev := rfl
@[simp] theorem State.spend_host (s : State) : (s.spend).host = s.host := rfl
@[simp] theorem State.spend_draws (s : State) : (s.spend).draws = s.draws.tail := rfl
@[simp] theorem State.spend_drawn (s : State) : (s.spend).drawn = s.drawn + 1 := rfl
@[simp] theorem State.spend_waiting (s : State) : (s.spend).waiting = s.waiting := rfl
@[simp] theorem State.spend_transcript (s : State) : (s.spend).transcript = s.transcript := rfl

@[simp] theorem State.goto_cfg (s : State) (op : Op) (p : Point) : (s.goto op p).cfg = s.cfg := rfl
@[simp] theorem State.goto_initialized (s : State) (op : Op) (p : Point) :
    (s.goto op p).initialized = s.initialized := rfl
@[simp] theorem State.goto_faulted (s : State) (op : Op) (p : Point) : (s.goto op p).faulted = s.faulted := rfl
@[simp] theorem State.goto_phase (s : State) (op : Op) (p : Point) : (s.goto op p).phase = .busy op p := rfl
@[simp] theorem State.goto_latch (s : State) (op : Op) (p : Point) : (s.goto op p).latch = s.latch := rfl
@[simp] theorem State.goto_work (s : State) (op : Op) (p : Point) : (s.goto op p).work = s.work := rfl
@[simp] theorem State.goto_resp (s : State) (op : Op) (p : Point) : (s.goto op p).resp = s.resp := rfl
@[simp] theorem State.goto_txn (s : State) (op : Op) (p : Point) : (s.goto op p).txn = s.txn := rfl
@[simp] theorem State.goto_dev (s : State) (op : Op) (p : Point) : (s.goto op p).dev = s.dev := rfl
@[simp] theorem State.goto_host (s : State) (op : Op) (p : Point) : (s.goto op p).host = s.host := rfl
@[simp] theorem State.goto_draws (s : State) (op : Op) (p : Point) : (s.goto op p).draws = s.draws := rfl
@[simp] theorem State.goto_drawn (s : State) (op : Op) (p : Point) : (s.goto op p).drawn = s.drawn := rfl
@[simp] theorem State.goto_waiting (s : State) (op : Op) (p : Point) : (s.goto op p).waiting = s.waiting := rfl
@[simp] theorem State.goto_transcript (s : State) (op : Op) (p : Point) :
    (s.goto op p).transcript = s.transcript := rfl

@[simp] theorem State.accept_cfg (s : State) (op : Op) : (s.accept op).cfg = s.cfg := rfl
@[simp] theorem State.accept_initialized (s : State) (op : Op) : (s.accept op).initialized = s.initialized := rfl
@[simp] theorem State.accept_faulted (s : State) (op : Op) : (s.accept op).faulted = s.faulted := rfl
@[simp] theorem State.accept_phase (s : State) (op : Op) : (s.accept op).phase = s.phase := rfl
@[simp] theorem State.accept_latch (s : State) (op : Op) :
    (s.accept op).latch = { s.latch with op := opBits op } := rfl
@[simp] theorem State.accept_work (s : State) (op : Op) : (s.accept op).work = {} := rfl
@[simp] theorem State.accept_resp (s : State) (op : Op) : (s.accept op).resp = {} := rfl
@[simp] theorem State.accept_txn (s : State) (op : Op) : (s.accept op).txn = none := rfl
@[simp] theorem State.accept_dev (s : State) (op : Op) : (s.accept op).dev = s.dev := rfl
@[simp] theorem State.accept_host (s : State) (op : Op) : (s.accept op).host = s.host := rfl
@[simp] theorem State.accept_draws (s : State) (op : Op) : (s.accept op).draws = s.draws := rfl
@[simp] theorem State.accept_drawn (s : State) (op : Op) : (s.accept op).drawn = s.drawn := rfl
@[simp] theorem State.accept_waiting (s : State) (op : Op) : (s.accept op).waiting = false := rfl
@[simp] theorem State.accept_transcript (s : State) (op : Op) : (s.accept op).transcript = s.transcript := rfl

@[simp] theorem State.latchRange_cfg (s : State) (addr size : Word) : (s.latchRange addr size).cfg = s.cfg := rfl
@[simp] theorem State.latchRange_initialized (s : State) (addr size : Word) :
    (s.latchRange addr size).initialized = s.initialized := rfl
@[simp] theorem State.latchRange_faulted (s : State) (addr size : Word) :
    (s.latchRange addr size).faulted = s.faulted := rfl
@[simp] theorem State.latchRange_phase (s : State) (addr size : Word) :
    (s.latchRange addr size).phase = s.phase := rfl
@[simp] theorem State.latchRange_latch (s : State) (addr size : Word) :
    (s.latchRange addr size).latch = { s.latch with addr := some addr, size := some size } := rfl
@[simp] theorem State.latchRange_work (s : State) (addr size : Word) : (s.latchRange addr size).work = s.work := rfl
@[simp] theorem State.latchRange_resp (s : State) (addr size : Word) : (s.latchRange addr size).resp = s.resp := rfl
@[simp] theorem State.latchRange_txn (s : State) (addr size : Word) : (s.latchRange addr size).txn = s.txn := rfl
@[simp] theorem State.latchRange_dev (s : State) (addr size : Word) : (s.latchRange addr size).dev = s.dev := rfl
@[simp] theorem State.latchRange_host (s : State) (addr size : Word) : (s.latchRange addr size).host = s.host := rfl
@[simp] theorem State.latchRange_draws (s : State) (addr size : Word) :
    (s.latchRange addr size).draws = s.draws := rfl
@[simp] theorem State.latchRange_drawn (s : State) (addr size : Word) :
    (s.latchRange addr size).drawn = s.drawn := rfl
@[simp] theorem State.latchRange_waiting (s : State) (addr size : Word) :
    (s.latchRange addr size).waiting = s.waiting := rfl
@[simp] theorem State.latchRange_transcript (s : State) (addr size : Word) :
    (s.latchRange addr size).transcript = s.transcript := rfl

@[simp] theorem State.respondWith_cfg (s : State) (r : Resp) : (s.respondWith r).cfg = s.cfg := rfl
@[simp] theorem State.respondWith_initialized (s : State) (r : Resp) :
    (s.respondWith r).initialized = s.initialized := rfl
@[simp] theorem State.respondWith_faulted (s : State) (r : Resp) : (s.respondWith r).faulted = s.faulted := rfl
@[simp] theorem State.respondWith_phase (s : State) (r : Resp) :
    (s.respondWith r).phase = if s.faulted then .faulted else .idle := rfl
@[simp] theorem State.respondWith_latch (s : State) (r : Resp) : (s.respondWith r).latch = {} := rfl
@[simp] theorem State.respondWith_work (s : State) (r : Resp) : (s.respondWith r).work = {} := rfl
@[simp] theorem State.respondWith_resp (s : State) (r : Resp) : (s.respondWith r).resp = r := rfl
@[simp] theorem State.respondWith_txn (s : State) (r : Resp) : (s.respondWith r).txn = s.txn := rfl
@[simp] theorem State.respondWith_dev (s : State) (r : Resp) : (s.respondWith r).dev = s.dev := rfl
@[simp] theorem State.respondWith_host (s : State) (r : Resp) : (s.respondWith r).host = s.host := rfl
@[simp] theorem State.respondWith_draws (s : State) (r : Resp) : (s.respondWith r).draws = s.draws := rfl
@[simp] theorem State.respondWith_drawn (s : State) (r : Resp) : (s.respondWith r).drawn = s.drawn := rfl
@[simp] theorem State.respondWith_waiting (s : State) (r : Resp) : (s.respondWith r).waiting = s.waiting := rfl
@[simp] theorem State.respondWith_transcript (s : State) (r : Resp) :
    (s.respondWith r).transcript = s.transcript := rfl

@[simp] theorem State.respond_cfg (s : State) (c : RespCode) : (s.respond c).cfg = s.cfg := rfl
@[simp] theorem State.respond_initialized (s : State) (c : RespCode) :
    (s.respond c).initialized = s.initialized := rfl
@[simp] theorem State.respond_faulted (s : State) (c : RespCode) : (s.respond c).faulted = s.faulted := rfl
@[simp] theorem State.respond_phase (s : State) (c : RespCode) :
    (s.respond c).phase = if s.faulted then .faulted else .idle := rfl
@[simp] theorem State.respond_latch (s : State) (c : RespCode) : (s.respond c).latch = {} := rfl
@[simp] theorem State.respond_work (s : State) (c : RespCode) : (s.respond c).work = {} := rfl
@[simp] theorem State.respond_resp (s : State) (c : RespCode) : (s.respond c).resp = { code := some c } := rfl
@[simp] theorem State.respond_txn (s : State) (c : RespCode) : (s.respond c).txn = s.txn := rfl
@[simp] theorem State.respond_dev (s : State) (c : RespCode) : (s.respond c).dev = s.dev := rfl
@[simp] theorem State.respond_host (s : State) (c : RespCode) : (s.respond c).host = s.host := rfl
@[simp] theorem State.respond_draws (s : State) (c : RespCode) : (s.respond c).draws = s.draws := rfl
@[simp] theorem State.respond_drawn (s : State) (c : RespCode) : (s.respond c).drawn = s.drawn := rfl
@[simp] theorem State.respond_waiting (s : State) (c : RespCode) : (s.respond c).waiting = s.waiting := rfl
@[simp] theorem State.respond_transcript (s : State) (c : RespCode) : (s.respond c).transcript = s.transcript := rfl

@[simp] theorem State.faultInternal_cfg (s : State) : (s.faultInternal).cfg = s.cfg := rfl
@[simp] theorem State.faultInternal_initialized (s : State) : (s.faultInternal).initialized = s.initialized := rfl
@[simp] theorem State.faultInternal_faulted (s : State) : (s.faultInternal).faulted = true := rfl
@[simp] theorem State.faultInternal_phase (s : State) : (s.faultInternal).phase = .faulted := rfl
@[simp] theorem State.faultInternal_latch (s : State) : (s.faultInternal).latch = {} := rfl
@[simp] theorem State.faultInternal_work (s : State) : (s.faultInternal).work = {} := rfl
@[simp] theorem State.faultInternal_resp (s : State) : (s.faultInternal).resp = { code := some .errInternal } := rfl
@[simp] theorem State.faultInternal_txn (s : State) : (s.faultInternal).txn = s.txn := rfl
@[simp] theorem State.faultInternal_dev (s : State) : (s.faultInternal).dev = s.dev := rfl
@[simp] theorem State.faultInternal_host (s : State) : (s.faultInternal).host = s.host := rfl
@[simp] theorem State.faultInternal_draws (s : State) : (s.faultInternal).draws = s.draws := rfl
@[simp] theorem State.faultInternal_drawn (s : State) : (s.faultInternal).drawn = s.drawn := rfl
@[simp] theorem State.faultInternal_waiting (s : State) : (s.faultInternal).waiting = s.waiting := rfl
@[simp] theorem State.faultInternal_transcript (s : State) : (s.faultInternal).transcript = s.transcript := rfl

@[simp] theorem State.bareDone_cfg (s : State) (a : Answer) : (s.bareDone a).cfg = s.cfg := rfl
@[simp] theorem State.bareDone_initialized (s : State) (a : Answer) :
    (s.bareDone a).initialized = s.initialized := rfl
@[simp] theorem State.bareDone_faulted (s : State) (a : Answer) : (s.bareDone a).faulted = s.faulted := rfl
@[simp] theorem State.bareDone_phase (s : State) (a : Answer) : (s.bareDone a).phase = .idle := rfl
@[simp] theorem State.bareDone_latch (s : State) (a : Answer) : (s.bareDone a).latch = s.latch := rfl
@[simp] theorem State.bareDone_work (s : State) (a : Answer) : (s.bareDone a).work = s.work := rfl
@[simp] theorem State.bareDone_resp (s : State) (a : Answer) : (s.bareDone a).resp = s.resp := rfl
@[simp] theorem State.bareDone_txn (s : State) (a : Answer) : (s.bareDone a).txn = some a := rfl
@[simp] theorem State.bareDone_dev (s : State) (a : Answer) : (s.bareDone a).dev = s.dev := rfl
@[simp] theorem State.bareDone_host (s : State) (a : Answer) : (s.bareDone a).host = s.host := rfl
@[simp] theorem State.bareDone_draws (s : State) (a : Answer) : (s.bareDone a).draws = s.draws := rfl
@[simp] theorem State.bareDone_drawn (s : State) (a : Answer) : (s.bareDone a).drawn = s.drawn := rfl
@[simp] theorem State.bareDone_waiting (s : State) (a : Answer) : (s.bareDone a).waiting = s.waiting := rfl
@[simp] theorem State.bareDone_transcript (s : State) (a : Answer) : (s.bareDone a).transcript = s.transcript := rfl

@[simp] theorem State.takeStatus_cfg (s : State) (i : Instr) (b : List Byte) :
    (s.takeStatus i b).cfg = s.cfg := by unfold State.takeStatus; split <;> rfl
@[simp] theorem State.takeStatus_initialized (s : State) (i : Instr) (b : List Byte) :
    (s.takeStatus i b).initialized = s.initialized := by unfold State.takeStatus; split <;> rfl
@[simp] theorem State.takeStatus_faulted (s : State) (i : Instr) (b : List Byte) :
    (s.takeStatus i b).faulted = s.faulted := by unfold State.takeStatus; split <;> rfl
@[simp] theorem State.takeStatus_phase (s : State) (i : Instr) (b : List Byte) :
    (s.takeStatus i b).phase = s.phase := by unfold State.takeStatus; split <;> rfl
@[simp] theorem State.takeStatus_latch (s : State) (i : Instr) (b : List Byte) :
    (s.takeStatus i b).latch = s.latch := by unfold State.takeStatus; split <;> rfl
@[simp] theorem State.takeStatus_resp (s : State) (i : Instr) (b : List Byte) :
    (s.takeStatus i b).resp = s.resp := by unfold State.takeStatus; split <;> rfl
@[simp] theorem State.takeStatus_txn (s : State) (i : Instr) (b : List Byte) :
    (s.takeStatus i b).txn = s.txn := by unfold State.takeStatus; split <;> rfl
@[simp] theorem State.takeStatus_dev (s : State) (i : Instr) (b : List Byte) :
    (s.takeStatus i b).dev = s.dev := by unfold State.takeStatus; split <;> rfl
@[simp] theorem State.takeStatus_host (s : State) (i : Instr) (b : List Byte) :
    (s.takeStatus i b).host = s.host := by unfold State.takeStatus; split <;> rfl
@[simp] theorem State.takeStatus_draws (s : State) (i : Instr) (b : List Byte) :
    (s.takeStatus i b).draws = s.draws := by unfold State.takeStatus; split <;> rfl
@[simp] theorem State.takeStatus_drawn (s : State) (i : Instr) (b : List Byte) :
    (s.takeStatus i b).drawn = s.drawn := by unfold State.takeStatus; split <;> rfl
@[simp] theorem State.takeStatus_waiting (s : State) (i : Instr) (b : List Byte) :
    (s.takeStatus i b).waiting = s.waiting := by unfold State.takeStatus; split <;> rfl
@[simp] theorem State.takeStatus_transcript (s : State) (i : Instr) (b : List Byte) :
    (s.takeStatus i b).transcript = s.transcript := by unfold State.takeStatus; split <;> rfl
@[simp] theorem State.takeStatus_rdsr (s : State) (b : List Byte) :
    s.takeStatus .rdsr b = { s with work := { s.work with sr := b.head? } } := rfl

theorem State.takeStatus_other {i : Instr} (h : i ≠ .rdsr) (s : State) (b : List Byte) : s.takeStatus i b = s :=
  if_neg h

@[simp] theorem State.idleTime_cfg (s : State) : s.idleTime.cfg = s.cfg := rfl
@[simp] theorem State.idleTime_initialized (s : State) : s.idleTime.initialized = s.initialized := rfl
@[simp] theorem State.idleTime_faulted (s : State) : s.idleTime.faulted = s.faulted := rfl
@[simp] theorem State.idleTime_phase (s : State) : s.idleTime.phase = s.phase := rfl
@[simp] theorem State.idleTime_latch (s : State) : s.idleTime.latch = s.latch := rfl
@[simp] theorem State.idleTime_work (s : State) : s.idleTime.work = s.work := rfl
@[simp] theorem State.idleTime_resp (s : State) : s.idleTime.resp = s.resp := rfl
@[simp] theorem State.idleTime_txn (s : State) : s.idleTime.txn = s.txn := rfl
@[simp] theorem State.idleTime_dev (s : State) : s.idleTime.dev = s.dev.passTime s.cfg s.draw := rfl
@[simp] theorem State.idleTime_host (s : State) : s.idleTime.host = s.host := rfl
@[simp] theorem State.idleTime_draws (s : State) : s.idleTime.draws = s.draws.tail := rfl
@[simp] theorem State.idleTime_drawn (s : State) : s.idleTime.drawn = s.drawn + 1 := rfl
@[simp] theorem State.idleTime_waiting (s : State) : s.idleTime.waiting = s.waiting := rfl
@[simp] theorem State.idleTime_transcript (s : State) : s.idleTime.transcript = s.transcript := rfl

@[simp] theorem State.perform_cfg (s : State) (call : Call) : (s.perform call).cfg = s.cfg := rfl
@[simp] theorem State.perform_initialized (s : State) (call : Call) :
    (s.perform call).initialized = s.initialized := rfl
@[simp] theorem State.perform_faulted (s : State) (call : Call) : (s.perform call).faulted = s.faulted := rfl
@[simp] theorem State.perform_phase (s : State) (call : Call) : (s.perform call).phase = s.phase := rfl
@[simp] theorem State.perform_latch (s : State) (call : Call) : (s.perform call).latch = s.latch := rfl
@[simp] theorem State.perform_work (s : State) (call : Call) : (s.perform call).work = s.work := rfl
@[simp] theorem State.perform_resp (s : State) (call : Call) : (s.perform call).resp = s.resp := rfl
@[simp] theorem State.perform_txn (s : State) (call : Call) : (s.perform call).txn = s.txn := rfl
@[simp] theorem State.perform_dev (s : State) (call : Call) :
    (s.perform call).dev = (s.dev.interact s.cfg s.drawn s.draw call).2 := rfl
@[simp] theorem State.perform_host (s : State) (call : Call) : (s.perform call).host = s.host := rfl
@[simp] theorem State.perform_draws (s : State) (call : Call) : (s.perform call).draws = s.draws.tail := rfl
@[simp] theorem State.perform_drawn (s : State) (call : Call) : (s.perform call).drawn = s.drawn + 1 := rfl
@[simp] theorem State.perform_waiting (s : State) (call : Call) : (s.perform call).waiting = false := rfl
@[simp] theorem State.perform_transcript (s : State) (call : Call) :
    (s.perform call).transcript = s.transcript ++ [⟨call, s.answer call⟩] := rfl

@[simp] theorem State.hang_cfg (s : State) : s.hang.cfg = s.cfg := rfl
@[simp] theorem State.hang_initialized (s : State) : s.hang.initialized = s.initialized := rfl
@[simp] theorem State.hang_faulted (s : State) : s.hang.faulted = s.faulted := rfl
@[simp] theorem State.hang_phase (s : State) : s.hang.phase = s.phase := rfl
@[simp] theorem State.hang_latch (s : State) : s.hang.latch = s.latch := rfl
@[simp] theorem State.hang_work (s : State) : s.hang.work = s.work := rfl
@[simp] theorem State.hang_resp (s : State) : s.hang.resp = s.resp := rfl
@[simp] theorem State.hang_txn (s : State) : s.hang.txn = s.txn := rfl
@[simp] theorem State.hang_dev (s : State) : s.hang.dev = s.dev.passTime s.cfg s.draw := rfl
@[simp] theorem State.hang_host (s : State) : s.hang.host = s.host := rfl
@[simp] theorem State.hang_draws (s : State) : s.hang.draws = s.draws.tail := rfl
@[simp] theorem State.hang_drawn (s : State) : s.hang.drawn = s.drawn + 1 := rfl
@[simp] theorem State.hang_waiting (s : State) : s.hang.waiting = true := rfl
@[simp] theorem State.hang_transcript (s : State) : s.hang.transcript = s.transcript := rfl

theorem State.draw_cons {s : State} {x : Draw} {l : List Draw} (h : s.draws = x :: l) : s.draw = x := by
  simp [State.draw, h]

@[simp] theorem State.hostReset_cfg (s : State) : s.hostReset.cfg = s.cfg := rfl
@[simp] theorem State.hostReset_initialized (s : State) : s.hostReset.initialized = false := rfl
@[simp] theorem State.hostReset_faulted (s : State) : s.hostReset.faulted = false := rfl
@[simp] theorem State.hostReset_phase (s : State) : s.hostReset.phase = .idle := rfl
@[simp] theorem State.hostReset_latch (s : State) : s.hostReset.latch = {} := rfl
@[simp] theorem State.hostReset_work (s : State) : s.hostReset.work = {} := rfl
@[simp] theorem State.hostReset_resp (s : State) : s.hostReset.resp = {} := rfl
@[simp] theorem State.hostReset_txn (s : State) : s.hostReset.txn = none := rfl
@[simp] theorem State.hostReset_host (s : State) : s.hostReset.host = s.host := rfl
@[simp] theorem State.hostReset_draws (s : State) : s.hostReset.draws = s.draws.tail := rfl
@[simp] theorem State.hostReset_drawn (s : State) : s.hostReset.drawn = s.drawn + 1 := rfl
@[simp] theorem State.hostReset_waiting (s : State) : s.hostReset.waiting = false := rfl
@[simp] theorem State.hostReset_transcript (s : State) : s.hostReset.transcript = s.transcript := rfl

@[simp] theorem State.latchEncoded_cfg (s : State) (e : Encoded) : (s.latchEncoded e).cfg = s.cfg := by cases e <;> rfl
@[simp] theorem State.latchEncoded_initialized (s : State) (e : Encoded) : (s.latchEncoded e).initialized = s.initialized := by cases e <;> rfl
@[simp] theorem State.latchEncoded_faulted (s : State) (e : Encoded) : (s.latchEncoded e).faulted = s.faulted := by cases e <;> rfl
@[simp] theorem State.latchEncoded_phase (s : State) (e : Encoded) : (s.latchEncoded e).phase = s.phase := by cases e <;> rfl
@[simp] theorem State.latchEncoded_latch_request (s : State) (r : Request) :
    (s.latchEncoded (.request r)).latch
      = { op := some r.op, addr := some r.addr, size := some r.size, level := some r.level, data := some r.data } := rfl
@[simp] theorem State.latchEncoded_latch_command (s : State) (w : Wire) : (s.latchEncoded (.command w)).latch = s.latch := rfl
@[simp] theorem State.latchEncoded_work (s : State) (e : Encoded) : (s.latchEncoded e).work = s.work := by cases e <;> rfl
@[simp] theorem State.latchEncoded_resp (s : State) (e : Encoded) : (s.latchEncoded e).resp = s.resp := by cases e <;> rfl
@[simp] theorem State.latchEncoded_txn (s : State) (e : Encoded) : (s.latchEncoded e).txn = s.txn := by cases e <;> rfl
@[simp] theorem State.latchEncoded_dev (s : State) (e : Encoded) : (s.latchEncoded e).dev = s.dev := by cases e <;> rfl
@[simp] theorem State.latchEncoded_host (s : State) (e : Encoded) : (s.latchEncoded e).host = s.host := by cases e <;> rfl
@[simp] theorem State.latchEncoded_draws (s : State) (e : Encoded) : (s.latchEncoded e).draws = s.draws := by cases e <;> rfl
@[simp] theorem State.latchEncoded_drawn (s : State) (e : Encoded) : (s.latchEncoded e).drawn = s.drawn := by cases e <;> rfl
@[simp] theorem State.latchEncoded_waiting (s : State) (e : Encoded) : (s.latchEncoded e).waiting = s.waiting := by cases e <;> rfl
@[simp] theorem State.latchEncoded_transcript (s : State) (e : Encoded) : (s.latchEncoded e).transcript = s.transcript := by cases e <;> rfl

end Sys2Proof.Machine
end

