-- ==== Sys2Proof/Laws/Engine.lean ====
section
/-! SUPPORT. Engine: what one interaction can do, induction over a run, how a run that finishes is computed, and what the two
shared beginnings of the meanings can answer. -/

namespace Sys2Proof.Machine

variable {s t u : State}

/-! ### One interaction -/

/-- What one interaction can do: the call stays unanswered, or it is performed and the answer leads on. -/
theorem State.interact_cases (h : s.interact = some t) :
    ∃ op p call, s.phase = .busy op p ∧ pointCall s op p = some call
      ∧ ((s.draw.reply = .unanswered ∧ t = s.hang)
        ∨ (s.draw.reply ≠ .unanswered ∧ advance (s.perform call) op p (s.answer call) = some t)) := by
  unfold State.interact at h
  split at h
  · rename_i op p hp
    obtain ⟨call, hc, h⟩ := Option.bind_eq_some_iff.1 h
    refine ⟨op, p, call, hp, hc, ?_⟩
    split at h
    · exact .inl ⟨by assumption, (Option.some.inj h).symm⟩
    · exact .inr ⟨by assumption, h⟩
  · cases h
  · cases h

/-- An answered interaction, computed. -/
theorem State.interact_answered {op : Op} {p : Point} {call : Call} (hp : s.phase = .busy op p)
    (hc : pointCall s op p = some call) (hr : s.draw.reply ≠ .unanswered) :
    s.interact = advance (s.perform call) op p (s.answer call) := by
  simp [State.interact, hp, hc, hr]

/-- An unanswered interaction, computed. -/
theorem State.interact_unanswered {op : Op} {p : Point} {call : Call} (hp : s.phase = .busy op p)
    (hc : pointCall s op p = some call) (hr : s.draw.reply = .unanswered) : s.interact = some s.hang := by
  simp [State.interact, hp, hc, hr]

/-! ### Runs -/

theorem State.run_quiet (h : ∀ op p, s.phase ≠ .busy op p) (n : Nat) : s.run n = s := by
  cases n with
  | zero => rfl
  | succ n =>
    unfold State.run
    split
    · rename_i op p hp; exact absurd hp (h op p)
    · rfl
    · rfl

theorem State.run_interact (h : s.interact = some t) (n : Nat) : s.run (n + 1) = if t.waiting then t else t.run n := by
  obtain ⟨op, p, -, hp, -⟩ := State.interact_cases h
  rw [State.run, hp]
  simp only [h]

/-- What every interaction keeps, a run keeps. -/
theorem State.run_induct {P : State → Prop} (hstep : ∀ s t, P s → s.interact = some t → P t) :
    ∀ n s, P s → P (s.run n) := by
  intro n
  induction n with
  | zero => exact fun _ h => h
  | succ n ih =>
    intro s hs
    unfold State.run
    split
    · split
      · exact hs
      · rename_i t ht
        split
        · exact hstep s t hs ht
        · exact ih t (hstep s t hs ht)
    · exact hs
    · exact hs

/-- `n` answered interactions lead from one state to another. -/
inductive Steps : Nat → State → State → Prop where
  | refl (s : State) : Steps 0 s s
  | step {n : Nat} {s t u : State} : s.interact = some t → t.waiting = false → Steps n t u → Steps (n + 1) s u

theorem Steps.trans {m n : Nat} (h : Steps m s t) (k : Steps n t u) : Steps (m + n) s u := by
  induction h with
  | refl => rwa [Nat.zero_add]
  | step hi hw _ ih => exact Nat.add_right_comm .. ▸ Steps.step hi hw (ih k)

theorem Steps.run {n : Nat} (h : Steps n s t) (m : Nat) : s.run (n + m) = t.run m := by
  induction h with
  | refl => rw [Nat.zero_add]
  | step hi hw _ ih => rw [Nat.add_right_comm, State.run_interact hi, hw, if_neg Bool.false_ne_true, ih]

/-- A run that reaches a state where no operation runs ends there. -/
theorem Steps.runOperation {n : Nat} (h : Steps n s t) (ht : ∀ op p, t.phase ≠ .busy op p) (hn : n ≤ operationFuel) :
    s.runOperation = t := by
  unfold State.runOperation
  rw [← Nat.add_sub_cancel' hn, h.run, State.run_quiet ht]

/-! ### The two beginnings -/

/-- What a host request can answer. -/
theorem beginRequest_next {op : Op} {body : State → State} (h : beginRequest op s body = .next t) :
    configLegal s.cfg = true ∧ (s.phase = .idle ∨ s.phase = .faulted)
      ∧ t = if s.faulted then (s.accept op).respond .errInternal else body (s.accept op) := by
  unfold beginRequest at h
  split at h
  · split at h
    · cases h
    · exact ⟨by assumption, .inl (by assumption), by cases h; rfl⟩
    · exact ⟨by assumption, .inr (by assumption), by cases h; rfl⟩
  · cases h

/-- A host request that is accepted, computed. -/
theorem beginRequest_eq {op : Op} {body : State → State} (hl : configLegal s.cfg = true)
    (hq : s.phase = .idle ∨ s.phase = .faulted) :
    beginRequest op s body = .next (if s.faulted then (s.accept op).respond .errInternal else body (s.accept op)) := by
  unfold beginRequest
  obtain hq | hq := hq <;> rw [if_pos hl, hq]

/-- The state from which a bare command's transaction runs. -/
def bareStart (s : State) (i : Instr) : State :=
  { s with waiting := false, txn := none }.goto .command (.command (.bare i) .frame)

/-- What a bare command can answer. -/
theorem beginCommand_next {i : Instr} (h : beginCommand i s = .next t) :
    configLegal s.cfg = true ∧ i.wellFormed = true ∧ formatApplies s.cfg i = true
      ∧ (s.phase = .idle ∨ s.phase = .faulted)
      ∧ t = if s.faulted then s.respond .errInternal else (bareStart s i).runOperation := by
  unfold beginCommand at h
  split at h
  · split at h
    · split at h
      · split at h
        · cases h
        · exact ⟨by assumption, by assumption, by assumption, .inl (by assumption), by cases h; rfl⟩
        · exact ⟨by assumption, by assumption, by assumption, .inr (by assumption), by cases h; rfl⟩
      · cases h
    · cases h
  · cases h

/-- A bare command that is accepted, computed. -/
theorem beginCommand_eq {i : Instr} (hl : configLegal s.cfg = true) (hw : i.wellFormed = true)
    (hf : formatApplies s.cfg i = true) (hq : s.phase = .idle ∨ s.phase = .faulted) :
    beginCommand i s = .next (if s.faulted then s.respond .errInternal else (bareStart s i).runOperation) := by
  unfold beginCommand
  obtain hq | hq := hq <;> rw [if_pos hl, if_pos hw, if_pos hf, hq] <;> rfl

end Sys2Proof.Machine
end

