-- ==== Sys2Proof/Laws/Advance.lean ====
section
/-! SUPPORT. Advance: the block's internal work between two interactions (R17) touches neither the environment nor the model's
own fields; and what one interaction leaves unchanged. -/

namespace Sys2Proof.Machine

variable {s t : State} {op : Op}

/-- Configuration, environment, host and the model's bookkeeping are the same. -/
structure SameOutside (s t : State) : Prop where
  cfg : t.cfg = s.cfg
  dev : t.dev = s.dev
  host : t.host = s.host
  draws : t.draws = s.draws
  drawn : t.drawn = s.drawn
  waiting : t.waiting = s.waiting
  transcript : t.transcript = s.transcript

theorem monitorPass_same (h : s.monitorPass op = some t) : SameOutside s t := by
  unfold State.monitorPass at h
  obtain ⟨i, -, h⟩ := Option.bind_eq_some_iff.1 h
  cases h
  split <;> constructor <;> rfl

theorem monitorEntry_same (h : s.monitorEntry op = some t) : SameOutside s t := by
  unfold State.monitorEntry at h
  obtain ⟨sr, -, h⟩ := Option.bind_eq_some_iff.1 h
  cases h
  split <;> constructor <;> rfl

theorem monitorReference_same {x : Word} (h : s.monitorReference op x = some t) : SameOutside s t := by
  obtain ⟨h1, h2, h3, h4, h5, h6, h7⟩ := monitorPass_same h
  constructor <;> assumption

theorem monitorSample_same {x : Word} (h : s.monitorSample op x = some t) : SameOutside s t := by
  unfold State.monitorSample at h
  obtain ⟨e, -, h⟩ := Option.bind_eq_some_iff.1 h
  split at h
  · exact monitorPass_same h
  · obtain ⟨e, -, h⟩ := Option.bind_eq_some_iff.1 h
    cases h
    constructor <;> rfl

theorem monitorPoll_same (h : s.monitorPoll op = some t) : SameOutside s t := by
  unfold State.monitorPoll at h
  obtain ⟨sr, -, h⟩ := Option.bind_eq_some_iff.1 h
  split at h
  · obtain ⟨e, -, h⟩ := Option.bind_eq_some_iff.1 h
    split at h
    · cases h; constructor <;> rfl
    · exact monitorPass_same h
  · cases h; constructor <;> rfl

theorem subNext_same (h : s.subNext op = some t) : SameOutside s t := by
  unfold State.subNext at h
  simp only [bind, Option.bind_eq_some_iff] at h
  obtain ⟨a, -, r, -, o, -, n, -, k, -, sectors, -, h⟩ := h
  split at h
  · unfold State.subStart at h
    simp only [bind, Option.bind_eq_some_iff] at h
    obtain ⟨a, -, r, -, h⟩ := h
    cases h; constructor <;> rfl
  · cases h; constructor <;> rfl

theorem siteDone_same {l : List Byte} {site : Site} (h : siteDone s op l site = some t) : SameOutside s t := by
  unfold siteDone at h
  cases site <;> dsimp only at h <;> first
    | exact subNext_same h
    | exact monitorEntry_same h
    | exact monitorPoll_same h
    | (cases h; constructor <;> rfl)
    | (obtain ⟨sr, -, h⟩ := Option.bind_eq_some_iff.1 h
       cases h; split <;> constructor <;> rfl)

/-- What an answer leads to is internal work. -/
theorem advance_same {p : Point} {a : Answer} (h : advance s op p a = some t) : SameOutside s t := by
  unfold advance at h
  split at h
  · cases h; constructor <;> rfl
  · cases h; constructor <;> rfl
  · exact monitorReference_same h
  · exact monitorSample_same h
  · obtain ⟨i, -, h⟩ := Option.bind_eq_some_iff.1 h
    split at h
    · cases h; constructor <;> rfl
    · exact siteDone_same h
  · obtain ⟨i, -, h⟩ := Option.bind_eq_some_iff.1 h
    have h := siteDone_same h
    unfold State.takeStatus at h
    split at h
    · obtain ⟨h1, h2, h3, h4, h5, h6, h7⟩ := h
      constructor <;> assumption
    · exact h
  · cases h
    rename_i site _
    cases site <;> constructor <;> rfl
  all_goals cases h

/-- The shapes of answers (R11): a clock read's is a sample, no other call's is, and one byte received is one byte. -/
theorem Device.interact_answer (c : Config) (k : Nat) (x : Draw) (d : Device) (call : Call) :
    (call = .now → ∃ t, (d.interact c k x call).1 = .time t)
      ∧ (call ≠ .now → ∀ t, (d.interact c k x call).1 ≠ .time t)
      ∧ (∀ cs, call = .receive 1 cs → ∀ l, (d.interact c k x call).1 = .ok l → ∃ b, l = [b]) := by
  refine ⟨?_, fun h t => ?_, ?_⟩
  · rintro rfl
    exact ⟨_, rfl⟩
  · cases call with
    | now => exact absurd rfl h
    | _ => unfold Device.interact; dsimp only; split <;> simp
  · rintro cs rfl l
    unfold Device.interact
    dsimp only
    split
    · simp
    · simp only [Answer.ok.injEq]
      rintro rfl
      simp [fit]

end Sys2Proof.Machine
end

