-- ==== Sys2Proof/Laws/Params.lean ====
section
/-! SUPPORT. Params: what a legal configuration (R8) gives. -/

namespace Sys2Proof.Machine

variable {c : Config}

/-- The legal values of R8, one by one. -/
theorem configLegal_spec (h : configLegal c = true) :
    8 ≤ c.addrBits ∧ c.addrBits ≤ 24 ∧ 1 ≤ c.pageSize ∧ c.pageSize ≤ capacity c ∧ 1 ≤ c.timeoutMs
      ∧ c.timeoutMs ≤ c.iterCeiling ∧ c.iterCeiling ≤ 2 ^ 32 - 2 ∧ 1 ≤ c.eraseMax
      ∧ c.opcRead.getLsbD c.a8Bit = false ∧ c.opcWrite.getLsbD c.a8Bit = false ∧ (opcodes c).Nodup := by
  simp only [configLegal, Bool.and_eq_true, Bool.not_eq_true', decide_eq_true_eq] at h
  tauto

/-- The array has at least one byte and at most 16 MiB (R8). -/
theorem capacity_bounds (h : configLegal c = true) : 1 ≤ capacity c ∧ capacity c ≤ 2 ^ 24 :=
  ⟨Nat.one_le_two_pow, Nat.pow_le_pow_right (by decide) (configLegal_spec h).2.1⟩

/-- `ABYTES` is 1, 2 or 3 (R74). -/
theorem abytes_cases (c : Config) : abytes c = 1 ∨ abytes c = 2 ∨ abytes c = 3 := by
  unfold abytes
  split <;> [skip; split] <;> simp

end Sys2Proof.Machine
end

