-- ==== Sys2Proof/Laws/Splitter.lean ====
section
/-! SUPPORT. Splitter: one sub-transfer's length, and where the next one starts. -/

namespace Sys2Proof.Machine

variable {P a r : Nat}

/-- A sub-transfer takes at least one byte, no more than remain, stays in its page, and fills the page unless it takes
all that remain (R89). -/
theorem transferSize_spec (hP : 1 ≤ P) (hr : 1 ≤ r) :
    1 ≤ transferSize P a r ∧ transferSize P a r ≤ r ∧ a % P + transferSize P a r ≤ P
      ∧ (transferSize P a r < r → a % P + transferSize P a r = P) := by
  have := Nat.mod_lt a hP
  unfold transferSize
  split <;> omega

/-- The address after a filled page is the start of the next one. -/
theorem page_next {n : Nat} (hP : 1 ≤ P) (h : a % P + n = P) : (a + n) % P = 0 ∧ (a + n) / P = a / P + 1 := by
  have e := Nat.div_add_mod a P
  have : a + n = P * (a / P + 1) := by rw [Nat.mul_add]; omega
  rw [this]
  exact ⟨Nat.mul_mod_right _ _, Nat.mul_div_cancel_left _ (by omega)⟩

/-- Bytes that fit in the page of their start end in it. -/
theorem page_end {n : Nat} (hn : 1 ≤ n) (h : a % P + n ≤ P) : (a + n - 1) / P = a / P := by
  have e := Nat.div_add_mod a P
  refine Nat.div_eq_of_lt_le ?_ ?_
  · rw [Nat.mul_comm]; omega
  · rw [Nat.add_mul, Nat.mul_comm]; omega

/-- A range has no more sub-transfers than bytes up to its end (R88). -/
theorem sectorCount_le (addr size : Nat) : sectorCount P addr size ≤ addr + size - 1 + 1 := by
  have h := Nat.div_le_self (addr + size - 1) P
  unfold sectorCount
  generalize (addr + size - 1) / P = x at *
  generalize addr / P = y at *
  omega

end Sys2Proof.Machine
end

