-- ==== Sys2Proof/Laws/Invariant.lean ====
section
/-! SUPPORT. Invariant: one interaction (R6) never reads an unwritten register and keeps what `Inv` says of the block and of the
device. -/

namespace Sys2Proof.Machine

variable {s t : State} {op : Op}

/-- The part of `Inv` that is about the block. -/
structure BlockInv (s : State) : Prop where
  legal : configLegal s.cfg = true
  phase : PhaseInv s
  resp : s.resp.data.isSome ∨ s.resp.value.isSome → s.resp.code = some .ok

/-! ### The two ways on: a response, or the next point -/

theorem BlockInv.respondWith (hl : configLegal s.cfg = true) (hw : s.waiting = false) (r : Resp)
    (hr : r.data.isSome ∨ r.value.isSome → r.code = some .ok) : BlockInv (s.respondWith r) := by
  refine ⟨hl, ?_, hr⟩
  unfold PhaseInv State.respondWith
  cases hf : s.faulted <;> simp [Unwritten, hw]

theorem BlockInv.respond (hl : configLegal s.cfg = true) (hw : s.waiting = false) (e : RespCode) :
    BlockInv (s.respond e) :=
  BlockInv.respondWith hl hw _ (by simp)

/-- What a running request's state has beside its point: the flags, and no response yet. -/
structure Running (s : State) (op : Op) : Prop where
  legal : configLegal s.cfg = true
  healthy : s.faulted = false
  request : op ≠ .command
  fresh : s.resp = {}
  ready : op = .write ∨ op = .read ∨ op = .erase ∨ op = .setProt → s.initialized = true

theorem Running.goto (h : Running s op) {p : Point} (hp : PointInv (s.goto op p) op p) : BlockInv (s.goto op p) := by
  refine ⟨h.legal, ?_, by simp [h.fresh]⟩
  simp only [PhaseInv, State.goto]
  exact ⟨h.healthy, hp, fun e => absurd e h.request, fun _ => h.fresh, h.ready⟩

/-- A running request goes on whatever its working registers hold. -/
theorem Running.congr (h : Running s op) (hc : t.cfg = s.cfg) (hf : t.faulted = s.faulted) (hr : t.resp = s.resp)
    (hi : t.initialized = s.initialized) : Running t op :=
  ⟨hc ▸ h.legal, hf ▸ h.healthy, h.request, hr ▸ h.fresh, fun ho => hi ▸ h.ready ho⟩

theorem range_not_command (h : op = .write ∨ op = .erase) : op ≠ .command := by
  rintro rfl
  simp at h

/-! ### Registers -/

theorem WriteInv.congr (h : WriteInv s op) (t : State) (hc : t.cfg = s.cfg) (hl : t.latch = s.latch)
    (hw : t.work.workAddr = s.work.workAddr ∧ t.work.remaining = s.work.remaining ∧ t.work.offset = s.work.offset
      ∧ t.work.sectors = s.work.sectors ∧ t.work.k = s.work.k ∧ t.work.n = s.work.n) : WriteInv t op := by
  obtain ⟨h1, h2, h3, h4, h5, h6⟩ := hw
  refine ⟨?_⟩
  rw [hc, hl, h1, h2, h3, h4, h5, h6]
  exact h.regs

/-- A work register that the sub-transfer loop does not own was written, or the point moved on. -/
theorem WriteInv.same (h : WriteInv s op) {sr : Option Byte} {mon : Option MonState} {e i l : Option Word} {ph : Phase} :
    WriteInv { s with phase := ph, work := { s.work with sr := sr, mon := mon, elapsed := e, iter := i, lastMs := l } } op :=
  h.congr _ rfl rfl ⟨rfl, rfl, rfl, rfl, rfl, rfl⟩

/-- `PointInv` depends on the configuration and the operation registers alone. -/
theorem PointInv.congr {p : Point} (h : PointInv s op p) (hc : t.cfg = s.cfg) (hl : t.latch = s.latch)
    (hw : t.work = s.work) : PointInv t op p := by
  have wi (h : WriteInv s op) : WriteInv t op := ⟨by rw [hc, hl, hw]; exact h.regs⟩
  have mi {n : Nat} (h : MonitorInv s n) : MonitorInv t n := by unfold MonitorInv at *; rwa [hw, hc]
  cases p with
  | transportInit => exact h
  | reference => exact ⟨h.1, wi h.2.1, by rw [hw]; exact h.2.2⟩
  | sample => exact ⟨h.1, wi h.2.1, by rw [hc]; exact mi h.2.2⟩
  | command site stage =>
    cases site <;> cases stage <;> first
      | exact h
      | exact ⟨h.1, wi h.2⟩
      | exact ⟨h.1, wi h.2.1, by rw [hc]; exact mi h.2.2⟩
      | exact ⟨h.1, by have := h.2; unfold ReadInv at *; rwa [hl, hc]⟩
      | (simp only [PointInv, hl, hw, hc] at h ⊢; exact h)

/-- What follows a sub-transfer (R90, R115): the response, or the monitor before the next sub-transfer. -/
theorem subNext_spec (hl : configLegal s.cfg = true) (h : WriteInv s op) :
    ∃ t, s.subNext op = some t ∧ (t = { s with work := t.work }.respond .ok
      ∨ ∃ w, t = { s with work := w }.monitorStart op ∧ WriteInv { s with work := w } op) := by
  obtain ⟨addr, size, a, r, o, sectors, k, n, g1, g2, g3, g4, g5, g6, g7, g8, b1, b2, b3, b4, b5, b6, b7, b8, b9, b10⟩ :=
    h.regs
  have hP := (configLegal_spec hl).2.2.1
  have hc := (capacity_bounds hl).2
  have ts := transferSize_spec (a := a.toNat) hP b4
  simp only [State.subNext, g3, g4, g5, g6, g7, g8, bind, Option.bind_some, pure]
  split
  · rename_i hk
    have hnr : n.toNat < r.toNat := by
      by_contra hge
      have := page_end (P := s.cfg.pageSize) (a := a.toNat) (n := r.toNat) b4 (by omega)
      rw [show a.toNat + r.toNat = addr.toNat + size.toNat by omega] at this
      simp only [sectorCount] at b5
      omega
    have ea : (a + n).toNat = a.toNat + n.toNat := by bv_omega
    have er : (r - n).toNat = r.toNat - n.toNat := by bv_omega
    have eo : (o + n).toNat = o.toNat + n.toNat := by bv_omega
    have ek : (k + 1).toNat = k.toNat + 1 := by have := sectors.isLt; bv_omega
    have hap := page_next (a := a.toNat) (n := n.toNat) hP (by omega)
    rw [← ea] at hap
    have ts' := transferSize_spec (a := (a + n).toNat) (r := (r - n).toNat) hP (by omega)
    have hlt := (r - n).isLt
    refine ⟨_, rfl, .inr ⟨_, rfl, ⟨?_⟩⟩⟩
    refine ⟨addr, size, a + n, r - n, o + n, sectors, k + 1, _, g1, g2, rfl, rfl, rfl, rfl, rfl, rfl, b1, by omega,
      by omega, by omega, b5, by omega, ?_, fun _ => hap.1, ?_, b10⟩
    · dsimp only
      omega
    · rw [BitVec.toNat_ofNat]
      exact Nat.mod_eq_of_lt (Nat.lt_of_le_of_lt ts'.2.1 hlt)
  · exact ⟨_, rfl, .inl rfl⟩

/-- The top of the monitor's loop (R96, R102): the next sample, or the internal fault. -/
theorem monitorPass_inv (h : Running s op) (hw : s.waiting = false) (hop : op = .write ∨ op = .erase) (hi : WriteInv s op)
    {e i l : Word} (he : s.work.elapsed = some e) (hit : s.work.iter = some i) (hlm : s.work.lastMs = some l)
    (hb : e.toNat ≤ s.cfg.timeoutMs - 1) (hib : i.toNat ≤ s.cfg.iterCeiling) :
    ∃ t, s.monitorPass op = some t ∧ BlockInv t := by
  have hc := (configLegal_spec h.legal).2.2.2.2.2.2.1
  unfold State.monitorPass
  rw [hit]
  refine ⟨_, rfl, ?_⟩
  have hi1 : (i + 1).toNat = i.toNat + 1 := by bv_omega
  split
  · exact BlockInv.respond (by exact h.legal) (by exact hw) .errInternal
  · rename_i hx
    refine Running.goto ?_ ?_
    · exact h.congr rfl rfl rfl rfl
    exact ⟨hop, hi.same, e, i + 1, l, he, rfl, hlm, hb, by omega, Nat.le_of_not_lt hx⟩

/-! ### The call of a point -/

theorem sendWrite_shape (c : Config) (a : Word) (p : List Byte) :
    (frameCall c (sendWrite c a p)).isSome ∧ (dataCall (sendWrite c a p)).isSome ∧ sendWrite c a p ≠ .rdsr := by
  unfold sendWrite
  split <;> [skip; split] <;> simp [frameCall, dataCall]

theorem sendRead_shape (c : Config) (a : Word) (m : Nat) :
    (frameCall c (sendRead c a m)).isSome ∧ (dataCall (sendRead c a m)).isSome := by
  unfold sendRead
  split <;> [skip; split] <;> exact ⟨rfl, rfl⟩

/-- The command of a sub-transfer (R115, R117): every register it is made of is written. -/
theorem subWrite_command (hop : op = .write ∨ op = .erase) (h : WriteInv s op) :
    ∃ a p, siteCommand s op .subWrite = some (sendWrite s.cfg a p) := by
  obtain ⟨addr, size, a, r, o, sectors, k, n, g1, g2, g3, g4, g5, g6, g7, g8, -, -, -, -, -, -, -, -, -, hd⟩ := h.regs
  obtain rfl | rfl := hop
  · obtain ⟨data, hd, -⟩ := hd rfl
    exact ⟨a, (data.drop o.toNat).take n.toNat, by simp only [siteCommand, payload, g3, g8, hd, g5]; rfl⟩
  · exact ⟨a, List.replicate n.toNat s.cfg.eraseValue, by simp only [siteCommand, payload, g3, g8]; rfl⟩

/-- Every point of a sound state has its call. -/
theorem pointCall_some {p : Point} (hp : PointInv s op p) : ∃ call, pointCall s op p = some call := by
  rw [← Option.isSome_iff_exists]
  cases p with
  | transportInit => rfl
  | reference => rfl
  | sample => rfl
  | command site stage =>
    have rd (h : ReadInv s) : ∃ a m, siteCommand s op .readData = some (sendRead s.cfg a m) := by
      obtain ⟨addr, size, g1, g2, -⟩ := h
      exact ⟨addr, size.toNat, by simp only [siteCommand, g1, g2]; rfl⟩
    cases site <;> cases stage <;> simp only [PointInv] at hp <;> first
      | exact hp.elim
      | rfl
      | (obtain ⟨a, p, h⟩ := subWrite_command hp.1 hp.2
         simp only [pointCall, h]
         first | exact (sendWrite_shape s.cfg a p).1 | exact (sendWrite_shape s.cfg a p).2.1)
      | (obtain ⟨a, m, h⟩ := rd hp.2
         simp only [pointCall, h]
         first | exact (sendRead_shape s.cfg a m).1 | exact (sendRead_shape s.cfg a m).2)
      | (obtain ⟨-, ⟨l, hl⟩, v, hv⟩ := hp; simp only [pointCall, siteCommand, hl, hv]; rfl)
      | (obtain ⟨-, -, -, -, h⟩ := hp; exact h)
      | (obtain ⟨-, h, -, -⟩ := hp; rename_i i; cases i <;> first | rfl | cases h)

/-! ### What an answer leads to -/

/-- A failed command ends its operation (R77, R110). -/
theorem siteFailed_inv {site : Site} {stage : Stage} (hb : BlockInv s) (hp : s.phase = .busy op (.command site stage))
    (hw : s.waiting = false) : BlockInv (siteFailed s site) := by
  cases site with
  | bare i =>
    have h := hb.phase
    simp only [PhaseInv, hp] at h
    have hop : op = .command := by cases stage <;> exact h.2.1.1
    refine ⟨hb.legal, ?_, hb.resp⟩
    simp only [siteFailed, State.bareDone, PhaseInv, hw, and_true]
    exact ⟨h.1, h.2.2.1 hop⟩
  | _ => exact BlockInv.respond hb.legal hw _

/-- The frame of a command is answered: its data phase, or what follows the command (R60, R146). -/
theorem frameDone_inv {site : Site} {call : Call} {l : List Byte} (hb : BlockInv s)
    (hp : s.phase = .busy op (.command site .frame)) (hc : pointCall s op (.command site .frame) = some call)
    (hw : s.waiting = false) : ∃ t, advance s op (.command site .frame) (.ok l) = some t ∧ BlockInv t := by
  have h := hb.phase
  simp only [PhaseInv, hp] at h
  obtain ⟨hf, hpi, hcu, hcr, hini⟩ := h
  obtain ⟨i, hi, -⟩ := Option.bind_eq_some_iff.1 hc
  have go (hr : op ≠ .command) (p : Point) (h : PointInv (s.goto op p) op p) :
      ∃ t, some (s.goto op p) = some t ∧ BlockInv t :=
    ⟨_, rfl, Running.goto ⟨hb.legal, hf, hr, hcr hr, hini⟩ h⟩
  simp only [advance, hi, bind, Option.bind_some, pure]
  cases site with
  | initWren => cases hi; cases hpi; exact go (by decide) _ rfl
  | initStatus => cases hi; cases hpi; exact go (by decide) _ rfl
  | deinitWrdi => cases hi; cases hpi; exact go (by decide) _ rfl
  | deinitStatus => cases hi; cases hpi; exact go (by decide) _ rfl
  | monEntry => cases hi; exact go (range_not_command hpi.1) _ ⟨hpi.1, hpi.2.same⟩
  | monPoll => cases hi; exact go (range_not_command hpi.1) _ ⟨hpi.1, hpi.2.1.same, hpi.2.2⟩
  | subWren => cases hi; exact go (range_not_command hpi.1) _ ⟨hpi.1, hpi.2.same⟩
  | subWrite =>
    obtain ⟨a, p, h⟩ := subWrite_command hpi.1 hpi.2
    rw [h] at hi
    cases hi
    rw [if_pos (sendWrite_shape s.cfg a p).2.1]
    exact go (range_not_command hpi.1) _ ⟨hpi.1, hpi.2.same⟩
  | readStatus => cases hi; obtain ⟨rfl, hr⟩ := hpi; exact go (by decide) _ ⟨rfl, hr⟩
  | readData =>
    obtain ⟨rfl, hr⟩ := hpi
    simp only [siteCommand, bind, Option.bind_eq_some_iff, pure, Option.some.injEq] at hi
    obtain ⟨a, -, m, -, rfl⟩ := hi
    rw [if_pos (sendRead_shape s.cfg a m.toNat).2]
    exact go (by decide) _ ⟨rfl, hr⟩
  | protStatus => cases hi; obtain ⟨rfl, hr⟩ := hpi; exact go (by decide) _ ⟨rfl, hr⟩
  | protWren => cases hi; obtain ⟨rfl, hr⟩ := hpi; exact go (by decide) _ ⟨rfl, hr⟩
  | protWrite =>
    simp only [siteCommand, bind, Option.bind_eq_some_iff, pure, Option.some.injEq] at hi
    obtain ⟨v, -, l, -, rfl⟩ := hi
    exact ⟨_, rfl, BlockInv.respond hb.legal hw _⟩
  | bare j =>
    cases hi
    split
    · rename_i hd
      refine ⟨_, rfl, hb.legal, ?_, hb.resp⟩
      simp only [PhaseInv, State.goto]
      exact ⟨hf, ⟨hpi.1, hpi.2.1, hpi.2.2.1, hpi.2.2.2, hd⟩, hcu, hcr, hini⟩
    · refine ⟨_, rfl, hb.legal, ?_, hb.resp⟩
      simp only [State.bareDone, PhaseInv, hw, and_true]
      exact ⟨hf, hcu hpi.1⟩

/-- The data phase of a command is answered: what follows the command (R96, R112 to R118). -/
theorem dataDone_inv {site : Site} {call : Call} {l : List Byte} (hb : BlockInv s)
    (hp : s.phase = .busy op (.command site .data)) (hc : pointCall s op (.command site .data) = some call)
    (hw : s.waiting = false) (hlen : ∀ cs, call = .receive 1 cs → ∃ b, l = [b]) :
    ∃ t, advance s op (.command site .data) (.ok l) = some t ∧ BlockInv t := by
  have h := hb.phase
  simp only [PhaseInv, hp] at h
  obtain ⟨hf, hpi, hcu, hcr, hini⟩ := h
  obtain ⟨i, hi, hd⟩ := Option.bind_eq_some_iff.1 hc
  have run (hr : op ≠ .command) (b : Option Byte) : Running { s with work := { s.work with sr := b } } op :=
    ⟨hb.legal, hf, hr, hcr hr, hini⟩
  have status (h : i = .rdsr) : ∃ b, l = [b] := by
    subst h
    exact hlen .stop (Option.some.inj hd).symm
  simp only [advance, hi, bind, Option.bind_some]
  cases site with
  | initWren => exact hpi.elim
  | deinitWrdi => exact hpi.elim
  | subWren => exact hpi.elim
  | protWren => exact hpi.elim
  | protWrite => exact hpi.elim
  | bare j =>
    cases hi
    have hu := hcu hpi.1
    refine ⟨_, rfl, ?_, ?_, ?_⟩
    · unfold State.takeStatus; split <;> exact hb.legal
    · unfold State.takeStatus
      split
      · simp only [State.bareDone, PhaseInv, hw, and_true]
        exact ⟨hf, hu.1, by rw [hu.2]⟩
      · simp only [State.bareDone, PhaseInv, hw, and_true]
        exact ⟨hf, hu⟩
    · unfold State.takeStatus; split <;> exact hb.resp
  | initStatus =>
    cases hi
    obtain ⟨b, rfl⟩ := status rfl
    refine ⟨_, rfl, ?_⟩
    split <;> exact BlockInv.respond (by exact hb.legal) (by exact hw) _
  | deinitStatus =>
    cases hi
    obtain ⟨b, rfl⟩ := status rfl
    refine ⟨_, rfl, ?_⟩
    split <;> exact BlockInv.respond (by exact hb.legal) (by exact hw) _
  | monEntry =>
    cases hi
    obtain ⟨b, rfl⟩ := status rfl
    have hr := run (range_not_command hpi.1) (some b)
    refine ⟨_, rfl, ?_⟩
    split
    · refine Running.goto ?_ ?_
      · exact hr.congr rfl rfl rfl rfl
      exact ⟨hpi.1, hpi.2.same, rfl, rfl⟩
    · refine Running.goto ?_ ?_
      · exact hr.congr rfl rfl rfl rfl
      exact ⟨hpi.1, hpi.2.same⟩
  | monPoll =>
    cases hi
    obtain ⟨b, rfl⟩ := status rfl
    obtain ⟨hop, hwi, e, i, x, he, hit, hlm, hb1, hb2, hb3⟩ := hpi
    have hr := run (range_not_command hop) (some b)
    simp only [siteDone, State.takeStatus, State.monitorPoll, if_true, List.head?_cons, bind, Option.bind_some, he, pure]
    split
    · split
      · exact ⟨_, rfl, BlockInv.respond (by exact hb.legal) (by exact hw) _⟩
      · exact monitorPass_inv (by exact hr.congr rfl rfl rfl rfl) (by exact hw) hop hwi.same (e := e) (i := i) (l := x) (by first | exact he | rfl)
          (by exact hit) (by exact hlm) (by dsimp only at *; omega) (by exact hb3)
    · refine ⟨_, rfl, Running.goto ?_ ?_⟩
      · exact hr.congr rfl rfl rfl rfl
      exact ⟨hop, hwi.same⟩
  | subWrite =>
    obtain ⟨a, p, h⟩ := subWrite_command hpi.1 hpi.2
    rw [h] at hi
    cases hi
    rw [State.takeStatus, if_neg (sendWrite_shape s.cfg a p).2.2]
    obtain ⟨t, ht, hs⟩ := subNext_spec hb.legal hpi.2
    refine ⟨t, ht, ?_⟩
    obtain hs | ⟨w, rfl, hwi⟩ := hs
    · rw [hs]; exact BlockInv.respond (by exact hb.legal) (by exact hw) _
    · have hr := range_not_command hpi.1
      refine Running.goto ?_ ?_
      · exact ⟨hb.legal, hf, hr, hcr hr, hini⟩
      · exact ⟨hpi.1, hwi.same⟩
  | readStatus =>
    cases hi
    obtain ⟨b, rfl⟩ := status rfl
    obtain ⟨rfl, hr⟩ := hpi
    refine ⟨_, rfl, ?_⟩
    split
    · exact BlockInv.respond (by exact hb.legal) (by exact hw) _
    · refine Running.goto ?_ ?_
      · exact run (by decide) (some b)
      · exact ⟨rfl, hr⟩
  | readData =>
    refine ⟨_, rfl, BlockInv.respondWith ?_ ?_ _ (by simp)⟩
    · unfold State.takeStatus; split <;> exact hb.legal
    · unfold State.takeStatus; split <;> exact hw
  | protStatus =>
    cases hi
    obtain ⟨b, rfl⟩ := status rfl
    obtain ⟨rfl, hr⟩ := hpi
    refine ⟨_, rfl, Running.goto ?_ ?_⟩
    · exact run (by decide) (some b)
    · exact ⟨rfl, hr, _, rfl⟩

/-- Whatever the answer, the block's work after it keeps the invariant. -/
theorem advance_inv {p : Point} {call : Call} {a : Answer} (hb : BlockInv s) (hp : s.phase = .busy op p)
    (hc : pointCall s op p = some call) (hw : s.waiting = false)
    (ha : (call = .now → ∃ t, a = .time t) ∧ (call ≠ .now → ∀ t, a ≠ .time t)
      ∧ (∀ cs, call = .receive 1 cs → ∀ l, a = .ok l → ∃ b, l = [b])) :
    ∃ t, advance s op p a = some t ∧ BlockInv t := by
  have h := hb.phase
  simp only [PhaseInv, hp] at h
  obtain ⟨hf, hpi, hcu, hcr, hini⟩ := h
  have hT := (configLegal_spec hb.legal).2.2.2.2.2.1
  cases p with
  | transportInit =>
    cases hc
    cases hpi
    cases a with
    | ok l => exact ⟨_, rfl, Running.goto ⟨hb.legal, hf, by decide, hcr (by decide), hini⟩ rfl⟩
    | error => exact ⟨_, rfl, BlockInv.respond hb.legal hw _⟩
    | time t => exact absurd rfl (ha.2.1 (by simp) t)
  | reference =>
    cases hc
    obtain ⟨hop, hwi, he, hit⟩ := hpi
    have hr := range_not_command hop
    obtain ⟨x, rfl⟩ := ha.1 rfl
    exact monitorPass_inv (s := { s with work := { s.work with lastMs := some x, mon := some .polling } })
      ⟨hb.legal, hf, hr, hcr hr, hini⟩ hw hop hwi.same he hit rfl (by simp) (by simp)
  | sample =>
    cases hc
    obtain ⟨hop, hwi, e, i, l, he, hit, hlm, hb1, hb2, hb3⟩ := hpi
    have hr : Running s op := ⟨hb.legal, hf, range_not_command hop, hcr (range_not_command hop), hini⟩
    obtain ⟨x, rfl⟩ := ha.1 rfl
    simp only [advance, State.monitorSample, hlm, bind, Option.bind_some]
    split
    · exact monitorPass_inv hr hw hop hwi he hit hlm hb1 hb3
    · simp only [he, Option.bind_some]
      refine ⟨_, rfl, Running.goto ?_ ?_⟩
      · exact hr.congr rfl rfl rfl rfl
      have hT1 := (configLegal_spec hb.legal).2.2.2.2.1
      have he1 : (e + 1).toNat = e.toNat + 1 := by
        have := (configLegal_spec hb.legal).2.2.2.2.2.2.1
        bv_omega
      exact ⟨hop, hwi.same, e + 1, i, x, rfl, hit, rfl, by simp only [State.goto_cfg]; omega, hb2, hb3⟩
  | command site stage =>
    cases a with
    | error => exact ⟨_, by cases stage <;> rfl, siteFailed_inv hb hp hw⟩
    | time t =>
      refine absurd rfl (ha.2.1 ?_ t)
      rintro rfl
      cases stage
      · obtain ⟨i, -, hi⟩ := Option.bind_eq_some_iff.1 hc
        cases i <;> cases hi
      · obtain ⟨i, -, hi⟩ := Option.bind_eq_some_iff.1 hc
        cases i <;> cases hi
    | ok l =>
      cases stage with
      | frame => exact frameDone_inv hb hp hc hw
      | data => exact dataDone_inv hb hp hc hw fun cs h => ha.2.2 cs h l rfl

/-- One interaction of a sound state goes on, and keeps the invariant but for `waiting`, which an unanswered call sets. -/
theorem interact_inv {p : Point} (h : Inv s) (hp : s.phase = .busy op p) :
    ∃ t, s.interact = some t ∧ BlockInv { t with waiting := false } ∧ DeviceInv t.cfg t.dev
      ∧ (t.waiting = true → t.phase = s.phase) := by
  have hph := h.phase
  simp only [PhaseInv, hp] at hph
  obtain ⟨hf, hpi, hcu, hcr, hini⟩ := hph
  obtain ⟨call, hc⟩ := pointCall_some hpi
  by_cases hr : s.draw.reply = .unanswered
  · refine ⟨_, State.interact_unanswered hp hc hr, ⟨h.legal, ?_, h.resp⟩, h.device.passTime, fun _ => rfl⟩
    simp only [PhaseInv, State.hang, State.spend, hp]
    exact ⟨hf, hpi.congr rfl rfl rfl, hcu, hcr, hini⟩
  · rw [State.interact_answered hp hc hr]
    have hb : BlockInv (s.perform call) := ⟨h.legal, by
      simp only [PhaseInv, State.perform, State.spend, hp]
      exact ⟨hf, hpi.congr rfl rfl rfl, hcu, hcr, hini⟩, h.resp⟩
    obtain ⟨t, ht, hbt⟩ := advance_inv hb hp (by rw [← hc]; cases p <;> rfl) rfl
      (Device.interact_answer s.cfg s.drawn s.draw s.dev call)
    have hsame := advance_same ht
    have hw : t.waiting = false := hsame.waiting
    refine ⟨t, ht, ?_, ?_, ?_⟩
    · rwa [show ({ t with waiting := false } : State) = t by rw [← hw]]
    · rw [hsame.cfg, hsame.dev]; exact h.device.interact _ _
    · rw [hw]; exact nofun

end Sys2Proof.Machine
end

