-- ==== Sys2Proof/Laws/Monitor.lean ====
section
/-! SUPPORT. Monitor: what each piece of the monitor's own work (R96) gives, and when the access checks (R109, R117) pass. -/

namespace Sys2Proof.Machine

variable {s : State} {op : Op} {b : Byte} {e i l x : Word}

/-- The top of the loop: the pass is counted, then the ceiling decides between the sample and the internal fault (R102). -/
theorem monitorPass_eq (h : s.work.iter = some i) :
    s.monitorPass op = some (if (i + 1).toNat > s.cfg.iterCeiling
      then State.faultInternal { s with work := { s.work with iter := some (i + 1) } }
      else State.goto { s with work := { s.work with iter := some (i + 1) } } op .sample) := by
  simp only [State.monitorPass, h]
  rfl

/-- After the first status read (R97, R98). -/
theorem monitorEntry_eq (h : s.work.sr = some b) :
    s.monitorEntry op = some (if wip b
      then State.goto { s with work := { s.work with elapsed := some 0, iter := some 0 } } op .reference
      else s.monitorDone op) := by
  simp only [State.monitorEntry, h]
  rfl

/-- A sample equal to the last one is not elapsed (R99). -/
theorem monitorSample_same_ms (h : s.work.lastMs = some l) : s.monitorSample op l = s.monitorPass op := by
  simp [State.monitorSample, h]

/-- A changed sample counts one and is followed by a status read (R99). -/
theorem monitorSample_elapsed (h : s.work.lastMs = some l) (hx : x ≠ l) (he : s.work.elapsed = some e) :
    s.monitorSample op x = some (State.goto { s with work := { s.work with lastMs := some x, elapsed := some (e + 1) } } op
      (.command .monPoll .frame)) := by
  simp [State.monitorSample, h, hx, he]

/-- After an elapsed sample's status read: WIP clear is done, whatever was counted (R101). -/
theorem monitorPoll_done (h : s.work.sr = some b) (hb : wip b = false) : s.monitorPoll op = some (s.monitorDone op) := by
  simp [State.monitorPoll, h, hb]

/-- After an elapsed sample's status read: WIP set at the timeout (R101). -/
theorem monitorPoll_timeout (h : s.work.sr = some b) (hb : wip b = true) (he : s.work.elapsed = some e)
    (ht : s.cfg.timeoutMs ≤ e.toNat) :
    s.monitorPoll op = some (State.respond { s with work := { s.work with mon := some .timedOut } } .errTimeout) := by
  simp [State.monitorPoll, h, hb, he, ht]

/-- After an elapsed sample's status read: WIP set before the timeout goes round the loop (R96). -/
theorem monitorPoll_again (h : s.work.sr = some b) (hb : wip b = true) (he : s.work.elapsed = some e)
    (ht : e.toNat < s.cfg.timeoutMs) : s.monitorPoll op = s.monitorPass op := by
  simp [State.monitorPoll, h, hb, he, Nat.not_le.2 ht]

/-- `CheckAccess` passes exactly where no check of R109 stops. -/
theorem checkAccess_none {addr size : Word} :
    checkAccess s addr size = none ↔ s.initialized = true ∧ size ≠ 0 ∧ outOfRange s.cfg addr size = false := by
  unfold checkAccess
  split <;> [skip; split <;> [skip; split]] <;> simp_all

/-- The checks of `ERASE` pass exactly where no check of R117 stops. -/
theorem checkErase_none {addr size : Word} :
    checkErase s addr size = none
      ↔ s.initialized = true ∧ size ≠ 0 ∧ size.toNat ≤ s.cfg.eraseMax ∧ outOfRange s.cfg addr size = false := by
  unfold checkErase
  split <;> [skip; split <;> [skip; split <;> [skip; split]]] <;> simp_all

end Sys2Proof.Machine
end

