-- ==== Sys2Proof/Laws/PerInstr.lean ====
section
/-! SUPPORT. PerInstr: the family FixedBits: every instruction's encoding has the fixed bits of its row of
spec/opcode_table.json. -/

namespace Sys2Proof.Laws.FixedBits

/-- A row's "mask" and "match", on byte 0 of a command and on the `op` field of a request record. -/
def row : Instr → Nat × Nat
  | .readA1 _ _ => (0xF7, 0x03)
  | .readA2 _ _ => (0xFF, 0x03)
  | .readA3 _ _ => (0xFF, 0x03)
  | .writeA1 _ _ => (0xF7, 0x02)
  | .writeA2 _ _ => (0xFF, 0x02)
  | .writeA3 _ _ => (0xFF, 0x02)
  | .wren => (0xFF, 0x06)
  | .wrdi => (0xFF, 0x04)
  | .rdsr => (0xFF, 0x05)
  | .wrsr _ => (0xFF, 0x01)
  | .init => (0x7, 0x0)
  | .deinit => (0x7, 0x1)
  | .isInit => (0x7, 0x2)
  | .write _ _ _ => (0x7, 0x3)
  | .read _ _ => (0x7, 0x4)
  | .erase _ _ => (0x7, 0x5)
  | .setProt _ => (0x7, 0x6)
  | .reservedOp7 => (0x7, 0x7)

/-- The bits a row's mask and match are about. -/
def firstBits : Encoded → Option Nat
  | .request r => some r.op.toNat
  | .command w => w.sent.head?.map BitVec.toNat

/-- With the table's opcodes, the encoding's first bits, masked, are the row's. -/
def Statement (i : Instr) : Prop := (firstBits (encode {} i)).map (· &&& (row i).1) = some (row i).2

theorem fold (opc : Byte) (h : opc.toNat &&& 0xF7 = opc.toNat) (b : Bool) :
    (foldA8 {} opc b).toNat &&& 0xF7 = opc.toNat := by
  revert opc b
  decide

theorem readA1 (a : BitVec 9) (m : Nat) : Statement (.readA1 a m) := congrArg some (fold 0x03 rfl _)
theorem readA2 (a : BitVec 16) (m : Nat) : Statement (.readA2 a m) := by
  simp [Statement, firstBits, encode, row, frameA2]
theorem readA3 (a : BitVec 24) (m : Nat) : Statement (.readA3 a m) := by
  simp [Statement, firstBits, encode, row, frameA3]
theorem writeA1 (a : BitVec 9) (p : List Byte) : Statement (.writeA1 a p) := congrArg some (fold 0x02 rfl _)
theorem writeA2 (a : BitVec 16) (p : List Byte) : Statement (.writeA2 a p) := by
  simp [Statement, firstBits, encode, row, frameA2]
theorem writeA3 (a : BitVec 24) (p : List Byte) : Statement (.writeA3 a p) := by
  simp [Statement, firstBits, encode, row, frameA3]
theorem wren : Statement .wren := by
  simp [Statement, firstBits, encode, row]
theorem wrdi : Statement .wrdi := by
  simp [Statement, firstBits, encode, row]
theorem rdsr : Statement .rdsr := by
  simp [Statement, firstBits, encode, row]
theorem wrsr (v : Byte) : Statement (.wrsr v) := by
  simp [Statement, firstBits, encode, row]
theorem init : Statement .init := by
  simp [Statement, firstBits, encode, row, bareRequest]
theorem deinit : Statement .deinit := by
  simp [Statement, firstBits, encode, row, bareRequest]
theorem isInit : Statement .isInit := by
  simp [Statement, firstBits, encode, row, bareRequest]
theorem write (addr size : Word) (data : List Byte) : Statement (.write addr size data) := by
  simp [Statement, firstBits, encode, row, bareRequest]
theorem read (addr size : Word) : Statement (.read addr size) := by
  simp [Statement, firstBits, encode, row, bareRequest]
theorem erase (addr size : Word) : Statement (.erase addr size) := by
  simp [Statement, firstBits, encode, row, bareRequest]
theorem setProt (level : Level) : Statement (.setProt level) := by
  simp [Statement, firstBits, encode, row, bareRequest]
theorem reservedOp7 : Statement .reservedOp7 := by
  simp [Statement, firstBits, encode, row, bareRequest]

end Sys2Proof.Laws.FixedBits
end

