-- ==== Sys2Proof/Laws/Written.lean ====
section
/-! SUPPORT. Written: the fault `unwrittenRegister` is answered only where an operation register holds no value (R19, U21): with
all of them written, an operation at a point of its pseudocode (R16) goes on. -/

namespace Sys2Proof.Machine

variable {s : State} {op : Op} {p : Point}

/-- Every operation register holds a value. -/
structure State.Written (s : State) : Prop where
  addr : s.latch.addr.isSome
  size : s.latch.size.isSome
  level : s.latch.level.isSome
  data : s.latch.data.isSome
  workAddr : s.work.workAddr.isSome
  remaining : s.work.remaining.isSome
  offset : s.work.offset.isSome
  sectors : s.work.sectors.isSome
  k : s.work.k.isSome
  n : s.work.n.isSome
  sr : s.work.sr.isSome
  elapsed : s.work.elapsed.isSome
  iter : s.work.iter.isSome
  lastMs : s.work.lastMs.isSome

theorem isSome_ite {α : Type} {c : Prop} [Decidable c] {a b : Option α} (ha : a.isSome) (hb : b.isSome) :
    (if c then a else b).isSome := by split <;> assumption

theorem State.Written.monitorPass (h : s.Written) : (s.monitorPass op).isSome := by
  obtain ⟨i, hi⟩ := Option.isSome_iff_exists.1 h.iter
  simp [State.monitorPass, hi]

theorem State.Written.monitorPoll (h : s.Written) : (s.monitorPoll op).isSome := by
  obtain ⟨b, hb⟩ := Option.isSome_iff_exists.1 h.sr
  obtain ⟨e, he⟩ := Option.isSome_iff_exists.1 h.elapsed
  simp only [State.monitorPoll, hb, he, bind, Option.bind_some]
  exact isSome_ite (isSome_ite rfl h.monitorPass) rfl

theorem State.Written.monitorEntry (h : s.Written) : (s.monitorEntry op).isSome := by
  obtain ⟨b, hb⟩ := Option.isSome_iff_exists.1 h.sr
  simp [State.monitorEntry, hb]

theorem State.Written.monitorSample (h : s.Written) (x : Word) : (s.monitorSample op x).isSome := by
  obtain ⟨l, hl⟩ := Option.isSome_iff_exists.1 h.lastMs
  obtain ⟨e, he⟩ := Option.isSome_iff_exists.1 h.elapsed
  simp only [State.monitorSample, hl, he, bind, Option.bind_some]
  exact isSome_ite h.monitorPass rfl

theorem State.Written.subNext (h : s.Written) : (s.subNext op).isSome := by
  obtain ⟨a, ha⟩ := Option.isSome_iff_exists.1 h.workAddr
  obtain ⟨r, hr⟩ := Option.isSome_iff_exists.1 h.remaining
  obtain ⟨o, ho⟩ := Option.isSome_iff_exists.1 h.offset
  obtain ⟨n, hn⟩ := Option.isSome_iff_exists.1 h.n
  obtain ⟨k, hk⟩ := Option.isSome_iff_exists.1 h.k
  obtain ⟨c, hc⟩ := Option.isSome_iff_exists.1 h.sectors
  simp only [State.subNext, ha, hr, ho, hn, hk, hc, bind, Option.bind_some]
  exact isSome_ite rfl rfl

theorem State.Written.siteCommand (h : s.Written) (op : Op) (site : Site) : (siteCommand s op site).isSome := by
  obtain ⟨a, ha⟩ := Option.isSome_iff_exists.1 h.addr
  obtain ⟨z, hz⟩ := Option.isSome_iff_exists.1 h.size
  obtain ⟨l, hl⟩ := Option.isSome_iff_exists.1 h.level
  obtain ⟨d, hd⟩ := Option.isSome_iff_exists.1 h.data
  obtain ⟨w, hw⟩ := Option.isSome_iff_exists.1 h.workAddr
  obtain ⟨o, ho⟩ := Option.isSome_iff_exists.1 h.offset
  obtain ⟨n, hn⟩ := Option.isSome_iff_exists.1 h.n
  obtain ⟨b, hb⟩ := Option.isSome_iff_exists.1 h.sr
  cases site <;> cases op <;> simp [Sys2Proof.Machine.siteCommand, payload, ha, hz, hl, hd, hw, ho, hn, hb]

theorem State.Written.siteDone (h : s.Written) (op : Op) (l : List Byte) (site : Site) : (siteDone s op l site).isSome := by
  obtain ⟨b, hb⟩ := Option.isSome_iff_exists.1 h.sr
  cases site <;> first
    | exact h.monitorEntry
    | exact h.monitorPoll
    | exact h.subNext
    | simp [Sys2Proof.Machine.siteDone, hb]

/-- The command of a place in an operation's pseudocode has a frame, and a data phase where the place has one. -/
theorem siteCommand_calls {site : Site} {i : Instr} (c : Config) (hb : site.belongs op = true)
    (hi : siteCommand s op site = some i) : (frameCall c i).isSome ∧ (site.hasData = true → (dataCall i).isSome) := by
  cases site with
  | bare j =>
    cases hi
    simp only [Site.belongs, Bool.and_eq_true] at hb
    refine ⟨?_, id⟩
    revert hb
    cases i <;> simp [frameCall]
  | subWrite =>
    simp only [Sys2Proof.Machine.siteCommand, bind, Option.bind_eq_some_iff] at hi
    obtain ⟨a, -, p, -, hi⟩ := hi
    cases hi
    unfold sendWrite
    split <;> [skip; split] <;> simp [frameCall, dataCall]
  | readData =>
    simp only [Sys2Proof.Machine.siteCommand, bind, Option.bind_eq_some_iff] at hi
    obtain ⟨a, -, n, -, hi⟩ := hi
    cases hi
    unfold sendRead
    split <;> [skip; split] <;> simp [frameCall, dataCall]
  | protWrite =>
    simp only [Sys2Proof.Machine.siteCommand, bind, Option.bind_eq_some_iff] at hi
    obtain ⟨a, -, n, -, hi⟩ := hi
    cases hi
    simp [frameCall, Site.hasData]
  | _ => cases hi; simp [frameCall, dataCall, Site.hasData]

theorem dataCall_not_now {i : Instr} {call : Call} (h : dataCall i = some call) : call ≠ .now := by
  rintro rfl; cases i <;> cases h

theorem frameCall_not_now {c : Config} {i : Instr} {call : Call} (h : frameCall c i = some call) : call ≠ .now := by
  rintro rfl; cases i <;> cases h

theorem State.Written.advance {call : Call} {a : Answer} (h : s.Written) (hb : p.belongs op = true)
    (hc : pointCall s op p = some call)
    (ha : (call = .now → ∃ t, a = .time t) ∧ (call ≠ .now → ∀ t, a ≠ .time t)
      ∧ (∀ cs, call = .receive 1 cs → ∀ l, a = .ok l → ∃ b, l = [b])) : (advance s op p a).isSome := by
  cases p with
  | transportInit =>
    cases hc
    cases a with
    | time t => exact absurd rfl (ha.2.1 (by simp) t)
    | _ => rfl
  | reference =>
    cases hc
    obtain ⟨x, rfl⟩ := ha.1 rfl
    exact State.Written.monitorPass (s := { s with work := { s.work with lastMs := some x, mon := some .polling } })
      { h with lastMs := rfl }
  | sample =>
    cases hc
    obtain ⟨x, rfl⟩ := ha.1 rfl
    exact h.monitorSample x
  | command site stage =>
    obtain ⟨i, hi⟩ := Option.isSome_iff_exists.1 (h.siteCommand op site)
    cases a with
    | error => cases stage <;> rfl
    | time t =>
      refine absurd rfl (ha.2.1 ?_ t)
      cases stage <;> simp only [pointCall, hi, bind, Option.bind_some] at hc
      · exact frameCall_not_now hc
      · exact dataCall_not_now hc
    | ok l =>
      cases stage with
      | frame =>
        simp only [Sys2Proof.Machine.advance, hi, bind, Option.bind_some]
        exact isSome_ite rfl (h.siteDone op [] site)
      | data =>
        simp only [Sys2Proof.Machine.advance, hi, bind, Option.bind_some]
        refine State.Written.siteDone ?_ op l site
        unfold State.takeStatus
        split
        · rename_i hr
          subst hr
          simp only [pointCall, hi, bind, Option.bind_some] at hc
          cases hc
          obtain ⟨b, rfl⟩ := ha.2.2 _ rfl l rfl
          exact { h with sr := rfl }
        · exact h

/-- R19: where every operation register holds a value, an operation at a point of its pseudocode goes on. -/
theorem State.Written.interact (h : s.Written) (hp : s.phase = .busy op p) (hb : p.belongs op = true) :
    ∃ t, s.interact = some t := by
  have hc : ∃ call, pointCall s op p = some call := by
    cases p with
    | command site stage =>
      obtain ⟨i, hi⟩ := Option.isSome_iff_exists.1 (h.siteCommand op site)
      cases stage
      · exact Option.isSome_iff_exists.1 (by simpa [pointCall, hi] using (siteCommand_calls s.cfg hb hi).1)
      · simp only [Point.belongs, Bool.and_eq_true] at hb
        exact Option.isSome_iff_exists.1 (by simpa [pointCall, hi] using (siteCommand_calls s.cfg hb.1 hi).2 hb.2)
    | _ => exact ⟨_, rfl⟩
  obtain ⟨call, hc⟩ := hc
  by_cases hr : s.draw.reply = .unanswered
  · exact ⟨_, State.interact_unanswered hp hc hr⟩
  · rw [State.interact_answered hp hc hr]
    exact Option.isSome_iff_exists.1 (State.Written.advance (s := s.perform call) { h with } hb
      (by rw [← hc]; cases p <;> rfl) (Device.interact_answer s.cfg s.drawn s.draw s.dev call))

/-- The condition of the fault holds only where an operation register holds no value (R19, U21). -/
theorem State.readsUnwritten_not_written (h : s.readsUnwritten = true) : ¬ s.Written := by
  intro hw
  unfold State.readsUnwritten at h
  split at h
  · rename_i op p hp
    simp only [Bool.and_eq_true] at h
    obtain ⟨t, ht⟩ := hw.interact hp h.1
    rw [ht] at h
    cases h.2
  all_goals cases h

/-- Resuming an operation faults only on an unwritten register. -/
theorem State.resume_fault {f : Fault} (h : s.resume = .fault f) : ¬ s.Written := by
  unfold State.resume at h
  split at h
  · exact State.readsUnwritten_not_written ‹_›
  · cases h

end Sys2Proof.Machine
end

