-- ==== Sys2Proof/Tests/Slice0.lean ====
section
/-! SUPPORT. Slice0: tests against the worked vectors of spec/95_test_vectors.md (their names W, F, K, X, S, M, T, P in the
comments), ill-formed terms, and a state and operands that meet the hypotheses of every obligation that has any. -/

namespace Sys2Proof.Tests

open Sys2Proof Sys2Proof.Machine

/-! ### Well-formedness: an ill-formed term for each check -/

theorem test_read_command_needs_a_byte :
    (Instr.readA1 0 0).wellFormed = false ∧ (Instr.readA2 0 0).wellFormed = false ∧ (Instr.readA3 0 0).wellFormed = false := by
  decide

theorem test_write_command_needs_a_byte :
    (Instr.writeA1 0 []).wellFormed = false ∧ (Instr.writeA2 0 []).wellFormed = false
      ∧ (Instr.writeA3 0 []).wellFormed = false := by decide

theorem test_write_request_data_length : (Instr.write 0 2 [0xAA]).wellFormed = false := by decide

/-! ### Encodings, written out from 30_encoding.md and the table -/

def nine : Config := { addrBits := 9 }
def wide : Config := { addrBits := 24 }

/-- The table: `0000a011 AAAAAAAA` (F4, F6), `00000011 A A` (F12), `00000011 A A A` (F14). -/
theorem test_decode_read :
    decodeWire nine ⟨[0b00000011, 0xFF], 4⟩ = .ok (.readA1 0x0FF 4)
      ∧ decodeWire nine ⟨[0b00001011, 0xA5], 4⟩ = .ok (.readA1 0x1A5 4)
      ∧ decodeWire {} ⟨[0b00000011, 0xFF, 0xFF], 1⟩ = .ok (.readA2 0xFFFF 1)
      ∧ decodeWire wide ⟨[0b00000011, 0x01, 0x23, 0x45], 1⟩ = .ok (.readA3 0x012345 1) := by decide

/-- The table: `0000a010 AAAAAAAA` (F7), `00000010 A A` (F10), `00000010 A A A` (F15). -/
theorem test_decode_write :
    decodeWire nine ⟨[0b00001010, 0xFF, 0x77], 0⟩ = .ok (.writeA1 0x1FF [0x77])
      ∧ decodeWire {} ⟨[0b00000010, 0x12, 0x34, 0xA0, 0xA1], 0⟩ = .ok (.writeA2 0x1234 [0xA0, 0xA1])
      ∧ decodeWire wide ⟨[0b00000010, 0xFF, 0xFF, 0xFF, 0], 0⟩ = .ok (.writeA3 0xFFFFFF [0]) := by decide

/-- K7, K9, K10, K12. -/
theorem test_decode_short_commands :
    decodeWire {} ⟨[0b00000110], 0⟩ = .ok .wren ∧ decodeWire {} ⟨[0b00000100], 0⟩ = .ok .wrdi
      ∧ decodeWire {} ⟨[0b00000101], 1⟩ = .ok .rdsr ∧ decodeWire {} ⟨[0b00000001, 0x8A], 0⟩ = .ok (.wrsr 0x8A) := by decide

/-- R67's operation codes. -/
theorem test_decode_requests :
    decodeRequest (bareRequest 0) = .ok .init ∧ decodeRequest (bareRequest 1) = .ok .deinit
      ∧ decodeRequest (bareRequest 2) = .ok .isInit
      ∧ decodeRequest ⟨3, 0x40, 1, 0, [0x55]⟩ = .ok (.write 0x40 1 [0x55])
      ∧ decodeRequest ⟨4, 0x10, 4, 0, []⟩ = .ok (.read 0x10 4) ∧ decodeRequest ⟨5, 0x10, 4, 0, []⟩ = .ok (.erase 0x10 4)
      ∧ decodeRequest ⟨6, 0, 0, 2, []⟩ = .ok (.setProt .upperHalf) ∧ decodeRequest (bareRequest 7) = .ok .reservedOp7 := by
  decide

theorem test_decode_refusals :
    decodeWire {} ⟨[], 1⟩ = .error .noOpcode ∧ decodeWire {} ⟨[0x9F], 3⟩ = .error .truncatedAddress
      ∧ decodeWire {} ⟨[0x9F, 0, 0], 3⟩ = .error .unknownOpcode ∧ decodeWire {} ⟨[0x03, 0, 0], 0⟩ = .error .emptyDataPhase
      ∧ decodeWire {} ⟨[0x02, 0, 0, 1], 1⟩ = .error .mixedDataPhase
      ∧ decodeRequest ⟨3, 0, 2, 0, [0]⟩ = .error .dataLength := by decide

/-- F5, F9, F13, F16, F19, F20. -/
theorem test_assemble :
    assemble nine 0x03 0x100 = [0x0B, 0x00] ∧ assemble { addrBits := 10 } 0x03 0x3FF = [0x03, 0x03, 0xFF]
      ∧ assemble { addrBits := 17 } 0x03 0x1FFFF = [0x03, 0x01, 0xFF, 0xFF]
      ∧ assemble { addrBits := 9, a8Bit := 4 } 0x03 0x1A5 = [0x13, 0xA5]
      ∧ assemble {} 0x03 0x12345 = [0x03, 0x23, 0x45] ∧ assemble nine 0x03 0x2A5 = [0x03, 0xA5] := by decide

/-- R66, R68, R69: the codes. -/
theorem test_codes :
    csBits .none = 0 ∧ csBits .stop = 1 ∧ csBits .start = 2 ∧ csBits .both = 3
      ∧ respCodeBits .errVerify = 6 ∧ levelCode .upperHalf = 2 := by decide

/-! ### Status byte and splitter -/

/-- X1, X3, X4, X6, X9, X10. -/
theorem test_status_byte :
    wip 0x03 = true ∧ wel 0x02 = true ∧ bp 0x08 = 2 ∧ wpen 0x8C = true ∧ withBp 0x82 1 = 0x86 ∧ withBp 0xFF 2 = 0xFB
      ∧ withBp 0x72 2 = 0x7A := by decide

/-- S6, S8, S9, S11, S14, S15. -/
theorem test_splitter :
    subTransfers 32 31 2 = [(31, 1), (32, 1)] ∧ subTransfers 32 30 2 = [(30, 2)] ∧ subTransfers 32 30 6 = [(30, 2), (32, 4)]
      ∧ (subTransfers 32 16 64).map Prod.snd = [16, 32, 16] ∧ (subTransfers 3 4 7).map Prod.snd = [2, 3, 2]
      ∧ subTransfers 16 0x1FC 4 = [(0x1FC, 4)] := by decide

/-- `transfer_size` values of section 2.4. -/
theorem test_transfer_size :
    transferSize 32 30 2 = 2 ∧ transferSize 32 30 3 = 2 ∧ transferSize 32 0 100 = 32 ∧ transferSize 32 63 40 = 1 := by decide

/-! ### One operation each -/

/-- A call answered `Ok`, a `Receive` by the device. -/
def ok : Draw :=
  ⟨.ok, none, 0, false, none, 0, false, false, false, false, [], false⟩

/-- `RX -> l` -/
def got (l : List Byte) : Draw := { ok with rx := some l }

/-- `NOW -> t` -/
def shown (t : Word) : Draw := { ok with now := t }

/-- `-> Error` -/
def failed : Draw := { ok with reply := .error }

/-- No answer (U8). -/
def silent : Draw := { ok with reply := .unanswered }

/-- The write cycle ends before the call (U14). -/
def ended : Draw := { ok with cycleEnds := true }

/-- `initialized = 1`, phase `IDLE`, the answers to come. -/
def live (xs : List Draw) : State := { State.reset with initialized := true, draws := xs }

/-- After reset, the answers to come. -/
def fresh (xs : List Draw) : State := { State.reset with draws := xs }

/-- What a run shows: the response and the transcript. -/
def seen (i : Instr) (s : State) : Option (Resp × List Interaction) :=
  match exec i s with
  | .next t => some (t.resp, t.transcript)
  | .fault _ | .refused _ => none

/-- T9. -/
theorem test_init :
    seen .init (fresh [ok, ok, ok, got [0x02]]) = some ({ code := some .ok },
      [⟨.transportInit, .ok []⟩, txOk [0x06] .both, txOk [0x05] .start, rxOk [0x02] .stop]) := by decide

/-- T9, the verify failure. -/
theorem test_init_verify :
    (seen .init (fresh [ok, ok, ok, got [0x00]])).map Prod.fst = some { code := some .errVerify } := by decide

/-- T10. -/
theorem test_deinit :
    seen .deinit (live [ok, ok, got [0x00]]) = some ({ code := some .ok },
      [txOk [0x04] .both, txOk [0x05] .start, rxOk [0x00] .stop]) := by decide

/-- T11. -/
theorem test_is_init :
    seen .isInit (fresh []) = some ({ code := some .ok, value := some false }, [])
      ∧ seen .isInit (live []) = some ({ code := some .ok, value := some true }, []) := by decide

/-- T3. -/
theorem test_write_last_byte :
    seen (.write 0xFFFF 1 [0xAA]) (live [ok, got [0], ok, ok, ok]) = some ({ code := some .ok },
      [txOk [0x05] .start, rxOk [0x00] .stop, txOk [0x06] .both, txOk [0x02, 0xFF, 0xFF] .start, txOk [0xAA] .stop]) := by
  decide

/-- T14. -/
theorem test_write_times_out_second :
    (seen (.write 30 6 [0xA0, 0xA1, 0xA2, 0xA3, 0xA4, 0xA5]) { live [ok, got [0], ok, ok, ok, ok, got [3], shown 0,
        shown 1, ok, got [3], shown 2, ok, got [3]] with cfg := { timeoutMs := 2 } }).map
      (fun r => (r.1, r.2.drop 5)) = some ({ code := some .errTimeout },
        [txOk [0x05] .start, rxOk [0x03] .stop, ⟨.now, .time 0⟩, ⟨.now, .time 1⟩, txOk [0x05] .start, rxOk [0x03] .stop,
          ⟨.now, .time 2⟩, txOk [0x05] .start, rxOk [0x03] .stop]) := by decide

/-- T6: a read across a page boundary is one transfer. -/
theorem test_read :
    seen (.read 30 6) (live [ok, got [0], ok, got [0x10, 0x11, 0x12, 0x13, 0x14, 0x15]]) =
      some ({ code := some .ok, data := some [0x10, 0x11, 0x12, 0x13, 0x14, 0x15] },
        [txOk [0x05] .start, rxOk [0x00] .stop, txOk [0x03, 0x00, 0x1E] .start,
          rxOk [0x10, 0x11, 0x12, 0x13, 0x14, 0x15] .stop]) := by decide

/-- W7. -/
theorem test_read_busy :
    seen (.read 0x10 4) (live [ok, got [1]]) =
      some ({ code := some .errBusy }, [txOk [0x05] .start, rxOk [0x01] .stop]) := by decide

/-- R117, with the splitter's S6. -/
theorem test_erase :
    (seen (.erase 31 2) (live [ok, got [0], ok, ok, ok, ok, got [0], ok, ok, ok])).map (fun r => (r.1, r.2.drop 3)) =
      some ({ code := some .ok }, [txOk [0x02, 0x00, 0x1F] .start, txOk [0xFF] .stop, txOk [0x05] .start,
        rxOk [0x00] .stop, txOk [0x06] .both, txOk [0x02, 0x00, 0x20] .start, txOk [0xFF] .stop]) := by decide

/-- T5: the staging-buffer limit before the range. -/
theorem test_erase_checks :
    seen (.erase 0x10000 300) (live []) = some ({ code := some .errPrecond }, [])
      ∧ seen (.erase 0x10000 1) (live []) = some ({ code := some .errAddrRange }, []) := by decide

/-- T4: the sum is not wrapped; T5: size before range. -/
theorem test_access_checks :
    seen (.read 0xFFFFFFFF 1) (live []) = some ({ code := some .errAddrRange }, [])
      ∧ seen (.write 0x10000 0 []) (live []) = some ({ code := some .errPrecond }, []) := by decide

/-- T12, level All. -/
theorem test_set_prot :
    seen (.setProt .all) (live [ok, got [0x82], ok, ok]) = some ({ code := some .ok },
      [txOk [0x05] .start, rxOk [0x82] .stop, txOk [0x06] .both, txOk [0x01, 0x8E] .both]) := by decide

/-- T12, the WREN error. -/
theorem test_set_prot_error :
    seen (.setProt .none) (live [ok, got [0], failed]) = some ({ code := some .errTransport },
      [txOk [0x05] .start, rxOk [0x00] .stop, ⟨.transmit [0x06] .both, .error⟩]) := by decide

/-- T13. -/
theorem test_reserved :
    seen .reservedOp7 (live []) = some ({ code := some .errPrecond }, [])
      ∧ seen .reservedOp7 { live [] with faulted := true, phase := .faulted } = some ({ code := some .errInternal }, []) := by
  decide

/-- M5: the ceiling is tested before the sample; the block faults. -/
theorem test_monitor_ceiling :
    (match exec (.write 0 1 [0]) { live [ok, got [1], shown 42, shown 42, shown 42, shown 42, shown 42, shown 42] with
        cfg := { iterCeiling := 5 } } with
      | .next t => decide (t.phase = .faulted ∧ t.resp = { code := some .errInternal } ∧ t.transcript.length = 8)
      | _ => false) = true := by decide

/-- What a bare command shows: its answer and the transcript. -/
def shownBy (i : Instr) (s : State) : Option (Option Answer × List Interaction) :=
  match exec i s with
  | .next t => some (t.txn, t.transcript)
  | .fault _ | .refused _ => none

/-- K1; F6. -/
theorem test_read_commands :
    shownBy (.readA2 0x0010 4) (fresh [ok, got [0xDE, 0xAD, 0xBE, 0xEF]]) = some (some (.ok [0xDE, 0xAD, 0xBE, 0xEF]),
        [txOk [0x03, 0x00, 0x10] .start, rxOk [0xDE, 0xAD, 0xBE, 0xEF] .stop])
      ∧ shownBy (.readA1 0x1A5 1) { fresh [ok, got [7]] with cfg := nine } =
        some (some (.ok [7]), [txOk [0x0B, 0xA5] .start, rxOk [7] .stop])
      ∧ shownBy (.readA3 0x012345 1) { fresh [ok, got [7]] with cfg := wide } =
        some (some (.ok [7]), [txOk [0x03, 0x01, 0x23, 0x45] .start, rxOk [7] .stop]) := by decide

/-- K4; F7. -/
theorem test_write_commands :
    shownBy (.writeA2 0x001E [0xA0, 0xA1]) (fresh [ok, ok]) =
        some (some (.ok []), [txOk [0x02, 0x00, 0x1E] .start, txOk [0xA0, 0xA1] .stop])
      ∧ shownBy (.writeA1 0x1FF [9]) { fresh [ok, ok] with cfg := nine } =
        some (some (.ok []), [txOk [0x0A, 0xFF] .start, txOk [9] .stop])
      ∧ shownBy (.writeA3 0xFFFFFF [9]) { fresh [ok, ok] with cfg := wide } =
        some (some (.ok []), [txOk [0x02, 0xFF, 0xFF, 0xFF] .start, txOk [9] .stop]) := by decide

/-- K5: the payload is not sent. -/
theorem test_write_command_error :
    shownBy (.writeA2 0x001E [0xA0]) (fresh [failed]) =
      some (some .error, [⟨.transmit [0x02, 0x00, 0x1E] .start, .error⟩]) := by decide

/-- K7, K9, K12. -/
theorem test_short_commands :
    shownBy .wren (fresh [ok]) = some (some (.ok []), [txOk [0x06] .both])
      ∧ shownBy .wrdi (fresh [ok]) = some (some (.ok []), [txOk [0x04] .both])
      ∧ shownBy (.wrsr 0x8A) (fresh [ok]) = some (some (.ok []), [txOk [0x01, 0x8A] .both]) := by decide

/-- K10: `sr = 0x03`. -/
theorem test_rdsr :
    (match exec .rdsr (fresh [ok, got [0x03]]) with
      | .next t => decide (t.work.sr = some 0x03 ∧ t.transcript = [txOk [0x05] .start, rxOk [0x03] .stop])
      | _ => false) = true := by decide

/-! ### The device -/

/-- R55: a payload past the end of its page wraps to the page's start (page size 4, start 2, three bytes). -/
theorem test_page_wrap :
    ((({ Device.initial with wel := true }).startWrite { pageSize := 4 } 2 [1, 2, 3] fun _ => true).endCycle
      { pageSize := 4 }).mem = [(0, 3), (2, 1), (3, 2)] := by decide

/-- R42, R43: upper half, with WP asserted (P3 step 8: 0x1FC is protected, 0xFF is not). -/
theorem test_protection :
    ({ Device.initial with bp := 2, wp := true } : Device).writeProtected nine 0x1FC = true
      ∧ ({ Device.initial with bp := 2, wp := true } : Device).writeProtected nine 0xFF = false
      ∧ ({ Device.initial with bp := 2 } : Device).writeProtected nine 0x1FC = false := by decide

/-- R57, U13: a WRSR during a cycle, ignored as drawn, and accepted as drawn; the cycle's own byte is committed either way. -/
theorem test_status_write_in_cycle :
    (let d : Device := { Device.initial with wel := true, cycle := some ⟨[(0x40, 0x55)], none⟩ }
      let ignored := (d.startStatusWrite ok 0x88).endCycle {}
      let taken := (d.startStatusWrite { ok with wrsrInCycle := true } 0x88).endCycle {}
      (ignored.bp, ignored.wpen, ignored.mem) = (0, false, [(0x40, 0x55)])
        ∧ (taken.bp, taken.wpen, taken.mem) = (2, true, [(0x40, 0x55)])) := by decide

/-- P1 steps 1, 2 and 4 in small: INIT, a one-byte write, its cycle ends, the read returns the byte. -/
theorem test_round_trip :
    (match exec (.write 0x1E 1 [0xA0]) (live [ok, ok, ok, ok, ok, ended, ok, ok, ok]) with
      | .next t => (seen (.read 0x1E 1) t).map Prod.fst
      | _ => none) = some { code := some .ok, data := some [0xA0] } := by decide

/-! ### Steps -/

/-- R107: a presented request is latched and run; R136: reset. -/
theorem test_steps :
    (match step { live [] with host := [.present (.request (bareRequest 2))] } with
      | .next t => decide (t.resp = { code := some .ok, value := some true } ∧ t.host = [])
      | _ => false) = true
    ∧ (match step { live [] with host := [.reset] } with
      | .next t => decide (t.initialized = false ∧ t.phase = .idle)
      | _ => false) = true := by decide

/-- R19, U21: a `READ` at its frame with no address latched (no run reaches it) faults; with the range latched it goes on. -/
theorem test_unwritten_register_faults :
    step { live [ok, got [7]] with phase := .busy .read (.command .readData .frame) } = .fault .unwrittenRegister
      ∧ (match step { live [ok, got [7]] with
          phase := .busy .read (.command .readData .frame), latch := { addr := some 0x10, size := some 1 } } with
        | .next t => decide (t.resp = { code := some .ok, data := some [7] })
        | _ => false) = true := ⟨rfl, by decide⟩

/-- U19: a `WRITE` whose data length is not its size is no request. -/
theorem test_step_refuses_ill_formed :
    step { live [] with host := [.present (.request ⟨3, 0, 2, 0, [0]⟩)] } = .refused (.illFormed .dataLength) := rfl

/-! ### Witnesses: the hypotheses of each obligation are met together

One theorem per obligation with hypotheses, one clause each where it has several. -/

theorem default_legal : configLegal {} = true := by decide

theorem live_ready (xs : List Draw) : Ready (live xs) := ⟨default_legal, rfl, rfl⟩

theorem fresh_ready (xs : List Draw) : Ready (fresh xs) := ⟨default_legal, rfl, rfl⟩

/-- The answers to come are the list given. -/
theorem draws_given (xs : List Draw) : (live xs).draws = xs ∧ (fresh xs).draws = xs := ⟨rfl, rfl⟩

/-- A run that shows `P` answers a state with `P`. -/
theorem of_run {i : Instr} {s : State} {P : State → Prop} [DecidablePred P]
    (h : (match exec i s with | .next t => decide (P t) | _ => false) = true) : ∃ t, exec i s = .next t ∧ P t := by
  split at h
  · exact ⟨_, by assumption, of_decide_eq_true h⟩
  · cases h

theorem witness_DecodeOfEncode :
    configLegal nine = true ∧ (Instr.writeA1 0x1FF [0]).wellFormed = true ∧ formatApplies nine (.writeA1 0x1FF [0]) = true
      ∧ (Instr.write 0xFFFFFFFF 1 [0]).wellFormed = true ∧ formatApplies nine (.write 0xFFFFFFFF 1 [0]) = true := by decide

theorem witness_EncodeOfDecodedCommand : decodeWire nine ⟨[0x0B, 0xFF], 1⟩ = .ok (.readA1 0x1FF 1) := by decide

theorem witness_FrameDecodes :
    (configLegal nine = true ∧ abytes nine = 1 ∧ (0x0B : Byte) &&& ~~~(1#8 <<< nine.a8Bit.val) = nine.opcRead
      ∧ (0x0A : Byte) &&& ~~~(1#8 <<< nine.a8Bit.val) = nine.opcWrite ∧ (0x1FF : Word).toNat < capacity nine)
    ∧ (configLegal {} = true ∧ abytes {} = 2 ∧ (0xFFFF : Word).toNat < capacity {})
    ∧ (configLegal wide = true ∧ abytes wide = 3 ∧ (0xFFFFFF : Word).toNat < capacity wide) := by decide

theorem witness_Assemble :
    (nine.addrBits ≤ 9 ∧ 10 ≤ ({ addrBits := 10 } : Config).addrBits ∧ ({ addrBits := 16 } : Config).addrBits ≤ 16)
      ∧ 17 ≤ ({ addrBits := 17 } : Config).addrBits ∧ wide.addrBits ≤ 24 := by decide

/-- SubTransfersCutTheRange, SubTransferLengthsClosedForm: S9 and S11, and R92's one-page case S2. -/
theorem witness_SubTransfers :
    (30 + 6 - 1 ≤ 0x10000 - 1 ∧ (subTransfers 32 30 6)[0]? = some (30, 2) ∧ (subTransfers 32 30 6)[1]? = some (32, 4))
      ∧ sectorCount 32 0 32 = 1 ∧ sectorCount 32 16 64 = 1 + 2 ∧ sectorCount 32 30 6 = 0 + 2 := by decide

/-! Running states. -/

/-- A `READ` about to make a call of one of its commands. -/
def reading (p : Point) (xs : List Draw) : State :=
  { live xs with phase := .busy .read p, latch := { op := some 4, addr := some 0x10, size := some 4 } }

/-- A one-byte `WRITE` about to make a call. -/
def writing (p : Point) (xs : List Draw) : State :=
  { live xs with
    phase := .busy .write p
    latch := { op := some 3, addr := some 0x10, size := some 1, data := some [0x55] }
    work := { workAddr := some 0x10, remaining := some 1, offset := some 0, sectors := some 1, k := some 0, n := some 1,
              mon := some .polling, elapsed := some 4, iter := some 7, lastMs := some 42 } }

theorem reading_inv (xs : List Draw) (st : Stage) : Inv (reading (.command .readStatus st) xs) := by
  refine ⟨default_legal, ⟨rfl, nofun, nofun⟩, ?_, nofun⟩
  have h : ReadInv (reading (.command .readStatus st) xs) := ⟨0x10, 4, rfl, rfl, by decide, (by decide : 0x10 + 4 ≤ capacity {})⟩
  exact ⟨rfl, ⟨rfl, h⟩, nofun, fun _ => rfl, fun _ => rfl⟩

theorem writing_inv (xs : List Draw) (st : Stage) : Inv (writing (.command .subWrite st) xs) := by
  refine ⟨default_legal, ⟨rfl, nofun, nofun⟩, ?_, nofun⟩
  have h : WriteInv (writing (.command .subWrite st) xs) .write :=
    ⟨0x10, 1, 0x10, 1, 0, 1, 0, 1, rfl, rfl, rfl, rfl, rfl, rfl, rfl, rfl, (by decide : 0x10 + 1 ≤ capacity {}), rfl, rfl,
      by decide, (by decide : 1 = sectorCount 32 0x10 1), by decide, rfl, nofun, (by decide : 1 = transferSize 32 0x10 1), fun _ => ⟨[0x55], rfl, rfl⟩⟩
  exact ⟨rfl, ⟨.inl rfl, h⟩, nofun, fun _ => rfl, fun _ => rfl⟩

/-- The one call answered, and not answered. -/
theorem witness_InteractionIsOneCall :
    (∃ t, (reading (.command .readStatus .frame) [ok]).interact = some t ∧ t.waiting = false)
      ∧ ∃ t, (reading (.command .readStatus .frame) [silent]).interact = some t ∧ t.waiting = true :=
  ⟨⟨_, rfl, rfl⟩, ⟨_, rfl, rfl⟩⟩

theorem witness_OnlyTableFormsAreSent :
    Inv (writing (.command .subWrite .data) [])
      ∧ (writing (.command .subWrite .data) []).phase = .busy .write (.command .subWrite .data)
      ∧ pointCall (writing (.command .subWrite .data) []) .write (.command .subWrite .data) =
        some (.transmit [0x55] .stop) :=
  ⟨writing_inv _ _, rfl, rfl⟩

theorem witness_DataPhaseFollows :
    siteCommand (writing (.command .subWrite .frame) []) .write .subWrite = some (.writeA2 0x10 [0x55])
      ∧ dataCall (.writeA2 0x10 [0x55]) = some (.transmit [0x55] .stop)
      ∧ (∃ t, (writing (.command .subWrite .frame) [ok]).interact = some t)
      ∧ (writing (.command .subWrite .frame) [ok]).draw.reply = .ok
      ∧ (∃ t, (writing (.command .subWrite .frame) [failed]).interact = some t)
      ∧ (writing (.command .subWrite .frame) [failed]).draw.reply = .error :=
  ⟨rfl, rfl, ⟨_, rfl⟩, rfl, ⟨_, rfl⟩, rfl⟩

theorem witness_TransportErrorAborts :
    Inv (reading (.command .readStatus .data) [failed])
      ∧ (reading (.command .readStatus .data) [failed]).phase = .busy .read (.command .readStatus .data)
      ∧ (reading (.command .readStatus .data) [failed]).draw.reply = .error :=
  ⟨reading_inv _ _, rfl, rfl⟩

/-- MonitorEntryWithWipClear (`0xFE`), MonitorEntryWithWipSet (`0x01`). -/
theorem witness_MonitorEntry :
    (∀ xs, (writing (.command .monEntry .frame) xs).phase = .busy .write (.command .monEntry .frame)
        ∧ (writing (.command .monEntry .frame) xs).draws = xs ∧ (writing (.command .monEntry .frame) xs).cfg = {})
      ∧ Answers ok ∧ Receives [0xFE] (got [0xFE]) ∧ wip 0xFE = false
      ∧ Receives [0x01] (got [0x01]) ∧ wip 0x01 = true ∧ Shows 7 (shown 7) ∧ configLegal {} = true :=
  ⟨fun _ => ⟨rfl, rfl, rfl⟩, rfl, ⟨rfl, rfl⟩, rfl, ⟨rfl, rfl⟩, rfl, ⟨rfl, rfl⟩, rfl⟩

/-- An elapsed sample, an unchanged one with a pass left, and an unchanged one on the last pass. -/
theorem witness_MonitorCounts :
    (writing .sample [shown 43]).phase = .busy .write .sample ∧ (writing .sample [shown 43]).draw.reply ≠ .unanswered
      ∧ (writing .sample [shown 43]).work.lastMs = some 42 ∧ (writing .sample [shown 43]).work.elapsed = some 4
      ∧ (writing .sample [shown 43]).work.iter = some 7 ∧ (writing .sample [shown 43]).draw.now ≠ 42
      ∧ (writing .sample [shown 42]).draw.now = 42 ∧ 7 + 1 ≤ ({} : Config).iterCeiling
      ∧ ({ iterCeiling := 7 } : Config).iterCeiling < 7 + 1 := by decide

/-- Below the timeout of 5, and at it. -/
theorem witness_MonitorPoll :
    (writing (.command .monPoll .data) [got [1]]).phase = .busy .write (.command .monPoll .data)
      ∧ Receives [1] (writing (.command .monPoll .data) [got [1]]).draw
      ∧ (writing (.command .monPoll .data) [got [1]]).faulted = false
      ∧ (writing (.command .monPoll .data) [got [1]]).work.iter = some 7
      ∧ (writing (.command .monPoll .data) [got [1]]).work.elapsed = some 4 ∧ (4 : Word).toNat < ({} : Config).timeoutMs
      ∧ ({ timeoutMs := 4 } : Config).timeoutMs ≤ (4 : Word).toNat ∧ wip 1 = true ∧ wip 2 = false
      ∧ (7 : Word).toNat + 1 ≤ ({} : Config).iterCeiling ∧ ({ iterCeiling := 7 } : Config).iterCeiling < (7 : Word).toNat + 1 :=
  ⟨rfl, ⟨rfl, rfl⟩, rfl, rfl, rfl, by decide, by decide, rfl, rfl, by decide, by decide⟩

theorem witness_EveryInstructionEnds :
    ∃ t, exec .init (fresh [ok, silent]) = .next t ∧ (∃ op p, t.phase = .busy op p) ∧ t.waiting = true := by
  obtain ⟨t, h, hp⟩ := of_run (i := .init) (s := fresh [ok, silent])
    (P := fun t => t.phase = .busy .init (.command .initWren .frame) ∧ t.waiting = true) (by decide)
  exact ⟨t, h, ⟨_, _, hp.1⟩, hp.2⟩

/-! Steps. -/

/-- A request presented to a ready block. -/
def asking : State := { live [] with host := [.present (.request (bareRequest 2)), .reset] }

theorem witness_StepRuns :
    configLegal asking.cfg = true ∧ Quiet asking ∧ asking.host = .present (.request (bareRequest 2)) :: [.reset]
      ∧ decode asking.cfg (.request (bareRequest 2)) = .ok .isInit :=
  ⟨rfl, .inl rfl, rfl, rfl⟩

/-- The host may already hold its next request while the block is busy. -/
theorem witness_BusyStep :
    (∀ rest, ({ reading (.command .readStatus .frame) [ok, got [1]] with host := asking.host } : State).host
        ≠ .reset :: rest)
      ∧ ∃ t, step { reading (.command .readStatus .frame) [ok, got [1]] with host := asking.host } = .next t :=
  ⟨nofun, _, rfl⟩

/-- ResetClearsTheBlock, ResetLeavesTheDevice. -/
theorem witness_Reset :
    configLegal ({ live [ok] with host := [.reset] } : State).cfg = true
      ∧ ({ live [ok] with host := [.reset] } : State).host = .reset :: []
      ∧ ({ live [ok] with host := [.reset] } : State).draw.cycleEnds = false := ⟨rfl, rfl, rfl⟩

theorem witness_IllegalConfiguration :
    configLegal ({ live [] with cfg := { addrBits := 25 } } : State).cfg = false
      ∧ configLegal ({ live [] with cfg := { addrBits := 7, pageSize := 1 } } : State).cfg = false := by decide

/-- The block after an internal fault. -/
def dead : State := { live [] with phase := .faulted, faulted := true, resp := { code := some .errInternal } }

theorem dead_inv : Inv dead := ⟨rfl, ⟨rfl, nofun, nofun⟩, ⟨rfl, ⟨rfl, rfl⟩, rfl⟩, nofun⟩

theorem witness_FaultedBlock :
    configLegal dead.cfg = true ∧ Quiet dead ∧ dead.faulted = true ∧ isRequest (.read 0 1) = true
      ∧ (Instr.read 0 1).wellFormed = true := ⟨rfl, .inr rfl, rfl, rfl, rfl⟩

theorem witness_OnlyResetClearsFaulted :
    Inv { dead with host := asking.host } ∧ ({ dead with host := asking.host } : State).faulted = true
      ∧ (∀ rest, ({ dead with host := asking.host } : State).host ≠ .reset :: rest)
      ∧ ∃ t, step { dead with host := asking.host } = .next t :=
  ⟨⟨rfl, ⟨rfl, nofun, nofun⟩, ⟨rfl, ⟨rfl, rfl⟩, rfl⟩, nofun⟩, rfl, nofun, _, rfl⟩

/-! Requests. -/

/-- IsInitAnswersTheFlag, ReservedOpIsAnsweredPrecond, AccessChecksComeFirst, EraseChecksComeFirst, SetProtNeedsInit:
`IS_INIT`, `RESERVED_OP7`, and the rejections of `READ`, `WRITE`, `ERASE` and `SET_PROT` at the ends of their ranges. -/
theorem witness_Rejections :
    Ready (fresh []) ∧ Ready (live []) ∧ (fresh []).initialized = false ∧ (live []).initialized = true
      ∧ (0x10000 : Word).toNat + (1 : Word).toNat - 1 > capacity (live []).cfg - 1
      ∧ (257 : Word).toNat > (live []).cfg.eraseMax ∧ (256 : Word).toNat ≤ (live []).cfg.eraseMax
      ∧ ([0xAA] : List Byte).length = (1 : Word).toNat :=
  ⟨fresh_ready _, live_ready _, rfl, rfl, by decide, by decide, by decide, rfl⟩

theorem witness_Init :
    Ready (fresh [ok, ok, ok, got [2]]) ∧ Answers ok ∧ Receives [2] (got [2]) ∧ wel 2 = true
      ∧ Receives [0xFD] (got [0xFD]) ∧ wel 0xFD = false :=
  ⟨fresh_ready _, rfl, ⟨rfl, rfl⟩, rfl, ⟨rfl, rfl⟩, rfl⟩

theorem witness_InitOnAnIdleDevice :
    Ready (fresh [ok, ok, ok, ok]) ∧ (fresh [ok, ok, ok, ok]).dev.cycle = none ∧ Faithful ok :=
  ⟨fresh_ready _, rfl, rfl, rfl, rfl⟩

theorem witness_Deinit : Ready (live [ok, ok, got [0]]) ∧ Answers ok ∧ Receives [0] (got [0]) ∧ wel 0 = false :=
  ⟨live_ready _, rfl, ⟨rfl, rfl⟩, rfl⟩

theorem witness_SetProt :
    Ready (live [ok, got [0x82], ok, ok]) ∧ (live [ok, got [0x82], ok, ok]).initialized = true ∧ Answers ok
      ∧ Receives [0x82] (got [0x82]) := ⟨live_ready _, rfl, rfl, rfl, rfl⟩

theorem witness_SetProtReaches :
    Ready (live [ok, ok, ok, ok]) ∧ (live [ok, ok, ok, ok]).dev.cycle = none ∧ Faithful ok
      ∧ ((live []).dev.wpen && (live []).dev.wp && ok.wrsrBlocked) = false :=
  ⟨live_ready _, rfl, ⟨rfl, rfl, rfl⟩, rfl⟩

/-- ReadReceivesTheRange, ReadWhileBusyIsRejected: the last byte of the array; WIP clear, and set. -/
theorem witness_Read :
    Ready (live [ok, got [0xFE], ok, got [7]]) ∧ (1 : Word) ≠ 0
      ∧ (0xFFFF : Word).toNat + (1 : Word).toNat - 1 ≤ capacity (live []).cfg - 1
      ∧ Receives [0xFE] (got [0xFE]) ∧ wip 0xFE = false ∧ Answers ok ∧ Receives [7] (got [7])
      ∧ ([7] : List Byte).length = (1 : Word).toNat ∧ wip 1 = true :=
  ⟨live_ready _, by decide, by decide, ⟨rfl, rfl⟩, rfl, rfl, ⟨rfl, rfl⟩, rfl, rfl⟩

/-- WriteSendsEveryPageInOrder, EraseSendsTheEraseValue: two sub-transfers (S6), ten answers. -/
theorem witness_WriteAndErase :
    Ready (live (List.replicate 10 (got [0]))) ∧ (2 : Word) ≠ 0
      ∧ (31 : Word).toNat + (2 : Word).toNat - 1 ≤ capacity (live []).cfg - 1
      ∧ ([1, 2] : List Byte).length = (2 : Word).toNat ∧ (2 : Word).toNat ≤ (live []).cfg.eraseMax
      ∧ (∀ x ∈ List.replicate 10 (got [0]), Receives [0] x) ∧ wip 0 = false
      ∧ (List.replicate 10 (got [0])).length = 5 * sectorCount (live []).cfg.pageSize (31 : Word).toNat (2 : Word).toNat :=
  ⟨live_ready _, by decide, by decide, rfl, by decide, fun x h => List.eq_of_mem_replicate h ▸ ⟨rfl, rfl⟩, rfl, by decide⟩

/-- M11: `TIMEOUT_MS = 1`, one elapsed sample. -/
theorem witness_WriteTimesOut :
    Ready { live [ok, got [1], shown 7, shown 8, ok, got [1]] with cfg := { timeoutMs := 1 } } ∧ Answers ok
      ∧ Receives [1] (got [1]) ∧ Shows 7 (shown 7) ∧ wip 1 = true ∧ PollDraws 1 [8] [shown 8, ok, got [1]]
      ∧ AllElapsed 7 [8] ∧ [8].length = ({ timeoutMs := 1 } : Config).timeoutMs :=
  ⟨⟨rfl, rfl, rfl⟩, rfl, ⟨rfl, rfl⟩, ⟨rfl, rfl⟩, rfl,
    ⟨shown 8, ok, got [1], [], rfl, ⟨rfl, rfl⟩, rfl, ⟨rfl, rfl⟩, rfl⟩, ⟨by decide, trivial⟩, rfl⟩

/-- M5: `ITER_CEILING = 5`, six equal samples. -/
theorem witness_StalledClock :
    Ready { live (ok :: got [1] :: List.replicate 6 (shown 42)) with cfg := { iterCeiling := 5 } } ∧ wip 1 = true
      ∧ (∀ z ∈ List.replicate 6 (shown 42), Shows 42 z)
      ∧ (List.replicate 6 (shown 42)).length = ({ iterCeiling := 5 } : Config).iterCeiling + 1 :=
  ⟨⟨rfl, rfl, rfl⟩, rfl, fun _ h => List.eq_of_mem_replicate h ▸ ⟨rfl, rfl⟩, rfl⟩

/-! Commands. -/

/-- A device with the latch set, and with a cycle running. -/
def latched : Device := { Device.initial with wel := true }
def cycling : Device := { Device.initial with wel := true, cycle := some ⟨[(0x40, 0x55)], none⟩ }

/-- A device whose status register WPEN and WP lock, when the draw says so (U22). -/
def locked : Device := { latched with wpen := true, wp := true }

/-- LatchCommandsSetAndClearWel, WrsrSendsTheByte: WREN and WRDI outside a cycle, and accepted and not within one; WRSR
accepted outside a cycle and within one, and ignored for each of its reasons. -/
theorem witness_LatchAndStatusCommands :
    Ready (fresh [ok]) ∧ Answers ok ∧ (((fresh [ok]).dev.passTime {} ok).wip && !ok.latchInCycle) = false
      ∧ ((cycling.passTime {} { ok with latchInCycle := true }).wip && !({ ok with latchInCycle := true } : Draw).latchInCycle)
        = false
      ∧ ((cycling.passTime {} ok).wip && !ok.latchInCycle) = true
      ∧ (latched.passTime {} ok).acceptsStatusWrite ok = true
      ∧ ((cycling.passTime {} { ok with wrsrInCycle := true }).acceptsStatusWrite { ok with wrsrInCycle := true } = true
        ∧ (cycling.passTime {} { ok with wrsrInCycle := true }).wip = true)
      ∧ (cycling.passTime {} ok).acceptsStatusWrite ok = false
      ∧ (locked.passTime {} { ok with wrsrBlocked := true }).acceptsStatusWrite { ok with wrsrBlocked := true } = false
      ∧ (Device.initial.passTime {} ok).acceptsStatusWrite ok = false :=
  ⟨fresh_ready _, rfl, rfl, rfl, rfl, rfl, ⟨rfl, rfl⟩, rfl, rfl, rfl⟩

theorem witness_Rdsr : Ready (fresh [ok, got [3]]) ∧ Answers ok ∧ Answers (got [3]) ∧ (got [3]).rx = some [3] ∧ ok.rx = none :=
  ⟨fresh_ready _, rfl, rfl, rfl, rfl⟩

/-- ReadCommandsReceive, WriteCommandsSend: the three formats, each at the last address. -/
theorem witness_ReadAndWriteCommands :
    (Ready { fresh [ok, ok] with cfg := nine } ∧ formatApplies nine (.readA1 0x1FF 1) = true
      ∧ commandAddress (.readA1 0x1FF 1) = some 0x1FF ∧ formatApplies nine (.writeA1 0x1FF [1]) = true
      ∧ commandAddress (.writeA1 0x1FF [1]) = some 0x1FF)
    ∧ (Ready (fresh [ok, ok]) ∧ formatApplies {} (.readA2 0xFFFF 1) = true ∧ commandAddress (.readA2 0xFFFF 1) = some 0xFFFF
      ∧ formatApplies {} (.writeA2 0xFFFF [1]) = true ∧ commandAddress (.writeA2 0xFFFF [1]) = some 0xFFFF)
    ∧ (Ready { fresh [ok, ok] with cfg := wide } ∧ formatApplies wide (.readA3 0xFFFFFF 1) = true
      ∧ commandAddress (.readA3 0xFFFFFF 1) = some 0xFFFFFF ∧ formatApplies wide (.writeA3 0xFFFFFF [1]) = true
      ∧ commandAddress (.writeA3 0xFFFFFF [1]) = some 0xFFFFFF)
    ∧ Answers ok ∧ ([1] : List Byte) ≠ [] ∧ latched.cycle = none ∧ latched.wel = true ∧ Device.initial.wel = false
    ∧ cycling.cycle ≠ none ∧ ok.cycleEnds = false :=
  ⟨⟨⟨rfl, rfl, rfl⟩, rfl, rfl, rfl, rfl⟩, ⟨fresh_ready _, rfl, rfl, rfl, rfl⟩, ⟨⟨rfl, rfl, rfl⟩, rfl, rfl, rfl, rfl⟩, rfl,
    by decide, rfl, rfl, rfl, nofun, rfl⟩

theorem witness_FailedCommand :
    Ready (fresh [failed]) ∧ isRequest .rdsr = false ∧ Instr.rdsr.wellFormed = true
      ∧ formatApplies (fresh [failed]).cfg .rdsr = true ∧ failed.reply = .error
      ∧ Ready (fresh [ok, failed]) ∧ Answers ok ∧ dataCall .rdsr = some (.receive 1 .stop) :=
  ⟨fresh_ready _, rfl, rfl, rfl, rfl, fresh_ready _, rfl, rfl⟩

/-! Frames. -/

/-- A command on a healthy block and on a faulted one. -/
theorem witness_CommandsKeep :
    (isRequest .wren = false ∧ ∃ t, exec .wren (fresh [ok]) = .next t ∧ (fresh [ok]).faulted = false)
      ∧ ∃ t, exec .wren dead = .next t ∧ dead.faulted = true :=
  ⟨⟨rfl, _, rfl, rfl⟩, _, rfl, rfl⟩

theorem witness_RequestsKeep :
    isRequest (.erase 0 1) = true ∧ ∃ t, exec (.erase 0 1) (live [failed]) = .next t ∧ t.phase = .idle :=
  ⟨rfl, of_run (P := fun t => t.phase = .idle) (by decide)⟩

/-- A byte below and a byte past the range of a `WRITE`, with a cycle pending elsewhere. -/
theorem witness_ArrayChanges :
    (∃ t, exec (.write 0x1E 1 [0xA0]) { live [ok, got [0], ok, ok, ok] with dev := cycling } = .next t)
      ∧ ¬ storesTo {} (.write 0x1E 1 [0xA0]) 0x1D ∧ ¬ storesTo {} (.write 0x1E 1 [0xA0]) 0x1F ∧ ¬ Pending cycling 0x1D
      ∧ ¬ Pending cycling 0x1F := by
  refine ⟨⟨_, rfl⟩, by simp [storesTo], by simp [storesTo], ?_, ?_⟩ <;>
    · rintro ⟨y, hy, v, hv⟩
      cases hy
      simp at hv

theorem witness_ProtectionBits :
    (∃ t, exec .wrdi { fresh [ended] with dev := cycling } = .next t) ∧ ∀ y, cycling.cycle = some y → y.status = none :=
  ⟨⟨_, rfl⟩, fun y h => by cases h; rfl⟩

/-- `INIT` presented to the block after reset, with a device that answers. -/
theorem witness_InitializedChanges :
    Inv { fresh [ok, ok, ok, ok] with host := [.present (.request (bareRequest 0))] }
      ∧ (∃ t, step { fresh [ok, ok, ok, ok] with host := [.present (.request (bareRequest 0))] } = .next t)
      ∧ (match step { fresh [ok, ok, ok, ok] with host := [.present (.request (bareRequest 0))] } with
        | .next t => t.initialized
        | _ => false) = true :=
  ⟨⟨rfl, ⟨rfl, nofun, nofun⟩, ⟨rfl, ⟨rfl, rfl⟩, rfl⟩, nofun⟩, ⟨_, rfl⟩, by decide⟩

/-! The device. -/

/-- ProtectedBytesSurviveACycle: each range of R42 at its boundary, `3 * CAPACITY / 4` and `CAPACITY / 2`, from both sides;
WP deasserted; and WP not needed. -/
theorem witness_ProtectedBytes :
    (let q : Device := { latched with bp := 1, wp := true }
      let h : Device := { latched with bp := 2, wp := true }
      q.writeProtected {} 0xC000 = true ∧ q.writeProtected {} 0xBFFF = false
        ∧ h.writeProtected {} 0x8000 = true ∧ h.writeProtected {} 0x7FFF = false ∧ h.writeProtected {} 0xFFFF = true
        ∧ ({ h with wp := false } : Device).writeProtected {} 0x8000 = false
        ∧ ({ h with wp := false } : Device).writeProtected { bpNeedsWp := false } 0x8000 = true) := by decide

/-- AcceptedWriteIsCommitted, ProtectedBytesSurviveACycle: the last two bytes of a page, at the end of the array; none
protected, and all. -/
theorem witness_AcceptedWrite :
    configLegal {} = true ∧ latched.cycle = none ∧ latched.wel = true ∧ 0xFFFE % ({} : Config).pageSize + 2 ≤ 32
      ∧ 0xFFFE + 2 ≤ capacity {} ∧ latched.writeProtected {} 0xFFFF = false
      ∧ ({ latched with bp := 3, wp := true } : Device).writeProtected {} 0 = true := by decide

theorem witness_RoundTrip :
    Ready (live [ok, ok, ok, ok, ok, ended, ok, ok, ok])
      ∧ (∀ x ∈ (live [ok, ok, ok, ok, ok, ended, ok, ok, ok]).draws, x.rx = none ∧ x.wpPin = none)
      ∧ (∃ t, exec (.write 0x1E 1 [0xA0]) (live [ok, ok, ok, ok, ok, ended, ok, ok, ok]) = .next t
        ∧ t.resp = { code := some .ok } ∧ 4 ≤ t.draws.length ∧ (∀ x ∈ t.draws.take 4, x.reply = .ok)
        ∧ t.draw.cycleEnds = true)
      ∧ ∀ a, ((live []).dev.endCycle (live []).cfg).writeProtected (live []).cfg a = false :=
  ⟨live_ready _, by decide, of_run (by decide), fun _ => rfl⟩

/-! The invariant: after reset, in a running operation, and over a step. -/

/-- EveryStepKeepsTheInvariant, NoUnwrittenRegisterIsRead. -/
theorem witness_EveryStepKeepsTheInvariant :
    Inv asking ∧ (∃ t, step asking = .next t)
      ∧ ∃ t, step (writing (.command .subWrite .frame) [ok, ok]) = .next t :=
  ⟨⟨rfl, ⟨rfl, nofun, nofun⟩, ⟨rfl, ⟨rfl, rfl⟩, rfl⟩, nofun⟩, ⟨_, rfl⟩, _, rfl⟩

end Sys2Proof.Tests
end

section
/-! Proofs about the scope (00_scope.md): an interaction is one call with its whole answer (O11), and no illegal
configuration has a run (O25), by way of the two shared beginnings of the instructions' meanings. -/

namespace Sys2Proof.Machine

variable {s t : State} {i : Instr}

/-- Settles O11: an unanswered call changes nothing but what `hang` does, and the block's work after an answer
(`advance_same`) touches nothing outside the block, so what `perform` consumed and recorded stands. -/
theorem interactionIsOneCall : Obligations.InteractionIsOneCall := by
  intro s t h
  obtain ⟨op, p, call, hp, hc, ⟨hr, rfl⟩ | ⟨hr, ha⟩⟩ := State.interact_cases h
  · exact ⟨s.hang_cfg, s.hang_host, s.hang_draws, s.hang_drawn, op, p, call, hp, hc,
      .inl ⟨s.hang_waiting, hr, s.hang_phase, s.hang_transcript⟩⟩
  · have hsame := advance_same ha
    exact ⟨hsame.cfg, hsame.host, hsame.draws, hsame.drawn, op, p, call, hp, hc,
      .inr ⟨hsame.waiting, hr, s.answer call, hsame.transcript⟩⟩

/-! ### Meanings by their beginnings -/

/-- A command's meaning is `beginCommand`. -/
theorem exec_command (hi : isRequest i = false) (s : State) : exec i s = beginCommand i s := by
  cases i with
  | readA1 | readA2 | readA3 | writeA1 | writeA2 | writeA3 | wren | wrdi | rdsr | wrsr => rfl
  | _ => cases hi

/-- A well-formed request's meaning is `beginRequest`, with an operation and a body of its own. -/
theorem exec_request (hi : isRequest i = true) (hw : i.wellFormed = true) (s : State) :
    ∃ op body, exec i s = beginRequest op s body := by
  cases i with
  | write addr size data => exact ⟨.write, _, if_pos hw⟩
  | init | deinit | isInit | read | erase | setProt | reservedOp7 => dsimp only [exec]; exact ⟨_, _, rfl⟩
  | _ => cases hi

/-- A request that is not well formed, a `WRITE` whose data length is not its size (R67), is refused. -/
theorem exec_request_badOperands (hi : isRequest i = true) (hw : ¬ i.wellFormed = true) (s : State) :
    exec i s = .refused .badOperands := by
  cases i with
  | write addr size data => exact if_neg hw
  | init | deinit | isInit | read | erase | setProt | reservedOp7 => exact absurd rfl hw
  | _ => cases hi

/-- An instruction has a next state in a legal configuration only (R8). -/
theorem configLegal_of_exec_next (h : exec i s = .next t) : configLegal s.cfg = true := by
  cases hi : isRequest i with
  | false =>
    rw [exec_command hi] at h
    exact (beginCommand_next h).1
  | true =>
    by_cases hw : i.wellFormed = true
    · obtain ⟨op, body, e⟩ := exec_request hi hw s
      exact (beginRequest_next (e ▸ h)).1
    · rw [exec_request_badOperands hi hw] at h
      cases h

/-- `step` refuses every illegal configuration (R8). -/
theorem step_illegalConfig (h : configLegal s.cfg = false) : step s = .refused .illegalConfig :=
  if_neg (Bool.eq_false_iff.1 h)

/-- Settles O25: `step` tests the configuration first, and so does the beginning of every meaning. -/
theorem illegalConfigurationHasNoRun : Obligations.IllegalConfigurationHasNoRun := by
  intro s t i h
  exact ⟨step_illegalConfig h, fun he => Bool.eq_false_iff.1 h (configLegal_of_exec_next he)⟩

end Sys2Proof.Machine
end

section
/-! Proofs about the block's state (10_state.md), first part: what a request comes to after its acceptance (R107, R108), and
that the invariant holds at reset and is kept by every step (O58, O59, O60). -/

namespace Sys2Proof.Machine

variable {s t u : State} {i : Instr} {op : Op} {p : Point} {addr size : Word}

/-! ### What a request comes to -/

/-- The operation of a request (R67); a command's is the bare transaction (log 17). -/
def operationOf : Instr → Op
  | .init => .init
  | .deinit => .deinit
  | .isInit => .isInit
  | .write _ _ _ => .write
  | .read _ _ => .read
  | .erase _ _ => .erase
  | .setProt _ => .setProt
  | .reservedOp7 => .reserved
  | .readA1 _ _ | .readA2 _ _ | .readA3 _ _ | .writeA1 _ _ | .writeA2 _ _ | .writeA3 _ _
  | .wren | .wrdi | .rdsr | .wrsr _ => .command

/-- What a request's acceptance (R107) keeps of `s`: configuration, device, host and flags. No call waits. -/
structure Accepted (s u : State) : Prop where
  cfg : u.cfg = s.cfg := by rfl
  dev : u.dev = s.dev := by rfl
  host : u.host = s.host := by rfl
  initialized : u.initialized = s.initialized := by rfl
  faulted : u.faulted = s.faulted := by rfl
  waiting : u.waiting = false := by rfl

/-- The request stands at a point of its operation with every register that point needs (R16, R18). -/
structure Launched (u : State) (op : Op) : Prop extends Running u op where
  atPoint : ∃ p, u.phase = .busy op p ∧ PointInv u op p

/-- What a request answered with no interaction answers (R108, R109, R114): a code alone, but for `IS_INIT`'s flag. -/
def AnswersAtOnce (i : Instr) (r : Resp) : Prop :=
  (∃ e, r = { code := some e }) ∨ ∃ b, i = .isInit ∧ r = { code := some .ok, value := some b }

/-- What a request comes to: accepted, it is answered at once, or runs from its first interaction. -/
def ComesTo (i : Instr) (s t : State) : Prop :=
  ∃ u, Accepted s u
    ∧ ((∃ r, AnswersAtOnce i r ∧ t = u.respondWith r) ∨ (Launched u (operationOf i) ∧ t = u.runOperation))

theorem Accepted.respond (h : Accepted s u) (i : Instr) (e : RespCode) : ComesTo i s (u.respond e) :=
  ⟨u, h, .inl ⟨_, .inl ⟨e, rfl⟩, rfl⟩⟩

/-- A faulted block answers `ERR_INTERNAL` (R108), so only the request's own work on a healthy one is left to look at. -/
theorem beginRequest_comesTo {body : State → State} (h : beginRequest op s body = .next t)
    (hb : configLegal s.cfg = true → s.faulted = false → ComesTo i s (body (s.accept op))) : ComesTo i s t := by
  obtain ⟨hl, -, rfl⟩ := beginRequest_next h
  split
  · exact Accepted.respond {} i .errInternal
  · exact hb hl (Bool.eq_false_iff.2 ‹_›)

theorem Launched.comesTo (h : Launched u (operationOf i)) (ha : Accepted s u) : ComesTo i s u.runOperation :=
  ⟨u, ha, .inr ⟨h, rfl⟩⟩

/-- A range that passes the checks of R109 holds at least one byte and ends in the array. -/
theorem range_le_capacity {c : Config} (hl : configLegal c = true) (hz : size ≠ 0)
    (ho : outOfRange c addr size = false) : 1 ≤ size.toNat ∧ addr.toNat + size.toNat ≤ capacity c := by
  have hs : size.toNat ≠ 0 := fun h => hz (BitVec.eq_of_toNat_eq h)
  have hc := (capacity_bounds hl).1
  simp only [outOfRange, decide_eq_false_iff_not] at ho
  omega

/-- `WriteRange` starts with every register of the sub-transfer loop written, at sub-transfer 0 (R90, R115). -/
theorem writeRange_writeInv (hl : configLegal s.cfg = true) (ha : s.latch.addr = some addr)
    (hs : s.latch.size = some size) (hz : size ≠ 0) (ho : outOfRange s.cfg addr size = false)
    (hd : op = .write → ∃ data, s.latch.data = some data ∧ data.length = size.toNat) :
    WriteInv (s.writeRange op addr size) op := by
  obtain ⟨h1, hcap⟩ := range_le_capacity hl hz ho
  have hc := (capacity_bounds hl).2
  have hsec := sectorCount_le (P := s.cfg.pageSize) addr.toNat size.toNat
  have hn := (transferSize_spec (a := addr.toNat) (configLegal_spec hl).2.2.1 h1).2.1
  have hsec0 : 1 ≤ sectorCount s.cfg.pageSize addr.toNat size.toNat := Nat.le_add_left ..
  have esec : (BitVec.ofNat 32 (sectorCount s.cfg.pageSize addr.toNat size.toNat)).toNat
      = sectorCount s.cfg.pageSize addr.toNat size.toNat := Nat.mod_eq_of_lt (by omega)
  have en : (BitVec.ofNat 32 (transferSize s.cfg.pageSize addr.toNat size.toNat)).toNat
      = transferSize s.cfg.pageSize addr.toNat size.toNat := Nat.mod_eq_of_lt (by omega)
  exact ⟨addr, size, addr, size, 0, _, 0, _, ha, hs, rfl, rfl, rfl, rfl, rfl, rfl, hcap, rfl, Nat.zero_add _, h1, esec,
    by rw [esec]; exact hsec0, rfl, nofun, en, hd⟩

/-- A `WRITE` or `ERASE` that passes its checks is launched at the first monitor's status read (R115, R117). -/
theorem writeRange_launched (hop : op = .write ∨ op = .erase) (hr : Running s op) (ha : s.latch.addr = some addr)
    (hs : s.latch.size = some size) (hz : size ≠ 0) (ho : outOfRange s.cfg addr size = false)
    (hd : op = .write → ∃ data, s.latch.data = some data ∧ data.length = size.toNat) :
    Launched (s.writeRange op addr size) op :=
  ⟨hr.congr rfl rfl rfl rfl, _, rfl, hop, writeRange_writeInv hr.legal ha hs hz ho hd⟩

/-- A request accepted on a healthy block runs (R107, R108). -/
theorem Accepted.running (h : Accepted s u) (hl : configLegal s.cfg = true) (hf : s.faulted = false) (hop : op ≠ .command)
    (hr : u.resp = {}) (hini : op = .write ∨ op = .read ∨ op = .erase ∨ op = .setProt → s.initialized = true) :
    Running u op :=
  ⟨h.cfg ▸ hl, h.faulted.trans hf, hop, hr, fun ho => h.initialized.trans (hini ho)⟩

/-- Every request is answered at once or launched (R107 to R118, R71). -/
theorem exec_request_comesTo (hi : isRequest i = true) (h : exec i s = .next t) : ComesTo i s t := by
  cases i with
  | init =>
    unfold exec execInit at h
    exact beginRequest_comesTo h fun hl hf =>
      Launched.comesTo ⟨Accepted.running {} hl hf nofun rfl nofun, _, rfl, rfl⟩ {}
  | deinit =>
    unfold exec execDeinit at h
    exact beginRequest_comesTo h fun hl hf =>
      Launched.comesTo ⟨Accepted.running {} hl hf nofun rfl nofun, _, rfl, rfl⟩ {}
  | isInit =>
    unfold exec execIsInit at h
    exact beginRequest_comesTo h fun _ _ => ⟨_, {}, .inl ⟨_, .inr ⟨_, rfl, rfl⟩, rfl⟩⟩
  | reservedOp7 =>
    unfold exec execReservedOp7 at h
    exact beginRequest_comesTo h fun _ _ => Accepted.respond {} _ _
  | write addr size data =>
    dsimp only [exec] at h
    unfold execWrite at h
    split at h
    · rename_i hw
      refine beginRequest_comesTo h fun hl hf => ?_
      dsimp only
      split
      · exact Accepted.respond {} _ _
      · rename_i hc
        obtain ⟨hini, hz, ho⟩ := checkAccess_none.1 hc
        exact Launched.comesTo (writeRange_launched (.inl rfl)
          (Accepted.running {} hl hf nofun rfl fun _ => hini) rfl rfl hz ho
          fun _ => ⟨data, rfl, of_decide_eq_true hw⟩) {}
    · cases h
  | read addr size =>
    unfold exec execRead at h
    refine beginRequest_comesTo h fun hl hf => ?_
    dsimp only
    split
    · exact Accepted.respond {} _ _
    · rename_i hc
      obtain ⟨hini, hz, ho⟩ := checkAccess_none.1 hc
      exact Launched.comesTo ⟨Accepted.running {} hl hf nofun rfl (fun _ => hini), _, rfl, rfl, addr, size, rfl,
        rfl, range_le_capacity hl hz ho⟩ {}
  | erase addr size =>
    unfold exec execErase at h
    refine beginRequest_comesTo h fun hl hf => ?_
    dsimp only
    split
    · exact Accepted.respond {} _ _
    · rename_i hc
      obtain ⟨hini, hz, -, ho⟩ := checkErase_none.1 hc
      exact Launched.comesTo (writeRange_launched (.inr rfl)
        (Accepted.running {} hl hf nofun rfl fun _ => hini) rfl rfl hz ho nofun) {}
  | setProt level =>
    unfold exec execSetProt at h
    refine beginRequest_comesTo h fun hl hf => ?_
    dsimp only
    split
    · rename_i hini
      exact Launched.comesTo ⟨Accepted.running {} hl hf nofun rfl (fun _ => hini), _, rfl, rfl, _, rfl⟩ {}
    · exact Accepted.respond {} _ _
  | _ => cases hi

/-! ### What a step can do -/

/-- A request record is never read as a command (R67). -/
theorem isRequest_of_decodeRequest {r : Request} (h : decodeRequest r = .ok i) : isRequest i = true := by
  unfold decodeRequest at h
  split at h
  case h_4 => split at h <;> cases h; rfl
  all_goals cases h; rfl

/-- The state a presented instruction runs in (R107): its move is taken, a request record latched. -/
def presented (s : State) (e : Encoded) (rest : List HostMove) : State := { s with host := rest }.latchEncoded e

/-- The four moves of the machine (R107, R136, R138), each with what it makes of the state. -/
theorem step_cases (h : step s = .next t) :
    (∃ rest, s.host = .reset :: rest ∧ t = State.hostReset { s with host := rest })
      ∨ (∃ op p, s.phase = .busy op p ∧ t = s.runOperation)
      ∨ (Quiet s ∧ t = s.idleTime)
      ∨ (Quiet s ∧ ∃ e rest i, s.host = .present e :: rest ∧ decode s.cfg e = .ok i
          ∧ exec i (presented s e rest) = .next t) := by
  have quiet (hb : ∀ op p, s.phase = .busy op p → False) : Quiet s := by
    unfold Quiet
    cases hp : s.phase with
    | idle => exact .inl rfl
    | faulted => exact .inr rfl
    | busy op p => exact (hb op p hp).elim
  unfold step at h
  split at h
  · split at h
    · rename_i rest hh
      cases h
      exact .inl ⟨rest, hh, rfl⟩
    · rename_i op p hp _
      unfold State.resume at h
      split at h <;> cases h
      exact .inr (.inl ⟨op, p, hp, rfl⟩)
    · rename_i hq
      cases h
      exact .inr (.inr (.inl ⟨quiet (by simpa using hq), rfl⟩))
    · rename_i e rest hh hq
      split at h
      · rename_i i hd
        exact .inr (.inr (.inr ⟨quiet hq, e, rest, i, hh, hd, h⟩))
      · cases h
  · cases h

/-! ### The invariant -/

/-- With the device sound, what `Inv` says of the block is all that is left. -/
theorem BlockInv.inv (h : BlockInv s) (hd : DeviceInv s.cfg s.dev) : Inv s := ⟨h.legal, hd, h.phase, h.resp⟩

/-- One interaction keeps the invariant: `waiting` matters in a quiet phase alone, and an unanswered call leaves the phase
`BUSY`. -/
theorem Inv.interact (h : Inv s) (ht : s.interact = some t) : Inv t := by
  obtain ⟨op, p, -, hp, -⟩ := State.interact_cases ht
  obtain ⟨t', ht', hb, hd, hw⟩ := interact_inv h hp
  obtain rfl : t = t' := Option.some.inj (ht ▸ ht')
  refine ⟨hb.legal, hd, ?_, hb.resp⟩
  have hph := hb.phase
  cases hwt : t.waiting with
  | false => rwa [show ({ t with waiting := false } : State) = t by rw [← hwt]] at hph
  | true =>
    have htp : t.phase = .busy op p := (hw hwt).trans hp
    simp only [PhaseInv, htp] at hph ⊢
    obtain ⟨hf, hpi, hu, hr, hini⟩ := hph
    exact ⟨hf, hpi.congr rfl rfl rfl, hu, hr, hini⟩

theorem Inv.runOperation (h : Inv s) : Inv s.runOperation :=
  State.run_induct (fun _ _ hs ht => hs.interact ht) operationFuel s h

theorem Launched.inv (h : Launched u op) (hd : DeviceInv u.cfg u.dev) : Inv u := by
  obtain ⟨hr, p, hp, hpi⟩ := h
  refine ⟨hr.legal, hd, ?_, by simp [hr.fresh]⟩
  simp only [PhaseInv, hp]
  exact ⟨hr.healthy, hpi, fun hc => absurd hc hr.request, fun _ => hr.fresh, hr.ready⟩

/-- A request needs a sound device alone to leave the invariant behind: acceptance rewrites all else (R107). -/
theorem exec_request_inv (hd : DeviceInv s.cfg s.dev) (hi : isRequest i = true) (h : exec i s = .next t) : Inv t := by
  obtain ⟨u, ha, ⟨r, hr, rfl⟩ | ⟨hl, rfl⟩⟩ := exec_request_comesTo hi h
  · have hlegal : configLegal u.cfg = true := ha.cfg ▸ configLegal_of_exec_next h
    refine (BlockInv.respondWith hlegal ha.waiting r ?_).inv (by rw [← ha.cfg, ← ha.dev] at hd; exact hd)
    obtain ⟨e, rfl⟩ | ⟨b, -, rfl⟩ := hr <;> simp
  · exact (hl.inv (by rw [ha.cfg, ha.dev]; exact hd)).runOperation

/-- A sound block holds no operation register in a quiet phase, and waits in no call (R19). -/
theorem Inv.quiet (h : Inv s) (hq : Quiet s) : Unwritten s ∧ s.waiting = false := by
  have hph := h.phase
  obtain hq | hq := hq <;> simp only [PhaseInv, hq] at hph <;> exact hph.2

/-- The flag is the phase `FAULTED` (R15, R17). -/
theorem Inv.faulted_iff (h : Inv s) : s.faulted = true ↔ s.phase = .faulted := by
  have hph := h.phase
  cases hp : s.phase <;> simp only [PhaseInv, hp] at hph <;> simp [hph.1]

theorem bareStart_inv (h : Inv s) (hq : Quiet s) (hf : s.faulted = false) (hi : isRequest i = false)
    (hw : i.wellFormed = true) (hfa : formatApplies s.cfg i = true) : Inv (bareStart s i) := by
  refine ⟨h.legal, h.device, ?_, h.resp⟩
  simp only [PhaseInv, bareStart, State.goto]
  exact ⟨hf, ⟨rfl, hi, hw, hfa⟩, fun _ => (h.quiet hq).1, fun hc => absurd rfl hc, by simp⟩

/-- A bare command keeps the invariant. -/
theorem exec_command_inv (hs : Inv s) (hi : isRequest i = false) (h : exec i s = .next t) : Inv t := by
  rw [exec_command hi] at h
  obtain ⟨hl, hw, hfa, hq, rfl⟩ := beginCommand_next h
  split
  · exact (BlockInv.respond hl (hs.quiet hq).2 _).inv hs.device
  · exact (bareStart_inv hs hq (Bool.eq_false_iff.2 ‹_›) hi hw hfa).runOperation

/-- Reset needs a legal configuration and a sound device alone: it rewrites all else (R139, R140). -/
theorem hostReset_inv (hl : configLegal s.cfg = true) (hd : DeviceInv s.cfg s.dev) : Inv s.hostReset := by
  refine ⟨hl, ?_, ⟨rfl, ⟨rfl, rfl⟩, rfl⟩, nofun⟩
  have hp : DeviceInv s.cfg (s.dev.passTime s.cfg s.draw) := hd.passTime
  unfold State.hostReset
  dsimp only [State.spend_cfg]
  split
  · exact ⟨hp.canonical, hp.bounded, hp.pending⟩
  · exact hp

/-- Idle time is the device's alone (R138). -/
theorem Inv.idleTime (h : Inv s) : Inv s.idleTime := by
  refine ⟨h.legal, h.device.passTime, ?_, h.resp⟩
  have hph := h.phase
  unfold PhaseInv at hph ⊢
  rw [State.idleTime_phase]
  split at hph
  · exact hph
  · exact hph
  · obtain ⟨hf, hpi, hu, hr, hini⟩ := hph
    exact ⟨hf, hpi.congr rfl rfl rfl, hu, hr, hini⟩

/-- What the host will do next is no part of the invariant. -/
theorem Inv.withHost (h : Inv s) (hq : Quiet s) (rest : List HostMove) : Inv { s with host := rest } := by
  refine ⟨h.legal, h.device, ?_, h.resp⟩
  have hph := h.phase
  obtain hq | hq := hq <;> simp only [PhaseInv, hq] at hph ⊢ <;> exact hph

/-- Settles O59: a reset and idle time leave a sound block; an operation that goes on keeps the invariant at every
interaction; a presented request does so from its acceptance on, and a presented command latches nothing before it runs. -/
theorem everyStepKeepsTheInvariant : Obligations.EveryStepKeepsTheInvariant := by
  intro s t hs h
  obtain ⟨rest, -, rfl⟩ | ⟨op, p, -, rfl⟩ | ⟨-, rfl⟩ | ⟨hq, e, rest, i, -, hd, hx⟩ := step_cases h
  · exact hostReset_inv hs.legal hs.device
  · exact hs.runOperation
  · exact hs.idleTime
  · cases hi : isRequest i with
    | true => exact exec_request_inv (by simpa [presented] using hs.device) hi hx
    | false =>
      cases e with
      | request r => exact absurd (isRequest_of_decodeRequest hd) (by simp [hi])
      | command w => exact exec_command_inv (hs.withHost hq rest) hi hx

/-- Settles O58: reset writes each flag and register to the value `PhaseInv` asks for in `IDLE`, and the array lists
nothing. -/
theorem resetMeetsTheInvariant : Obligations.ResetMeetsTheInvariant :=
  ⟨by decide, ⟨rfl, nofun, nofun⟩, ⟨rfl, ⟨rfl, rfl⟩, rfl⟩, nofun⟩

/-! ### No fault -/

theorem beginRequest_not_fault {body : State → State} {f : Fault} : beginRequest op s body ≠ .fault f := by
  unfold beginRequest
  split <;> [split; skip] <;> nofun

theorem beginCommand_not_fault {f : Fault} : beginCommand i s ≠ .fault f := by
  unfold beginCommand
  split <;> [split <;> [split <;> [split; skip]; skip]; skip] <;> nofun

/-- No instruction's meaning answers with a fault. -/
theorem exec_not_fault {f : Fault} : exec i s ≠ .fault f := by
  cases hi : isRequest i with
  | false => exact exec_command hi s ▸ beginCommand_not_fault
  | true =>
    by_cases hw : i.wellFormed = true
    · obtain ⟨op, body, e⟩ := exec_request hi hw s
      exact e ▸ beginRequest_not_fault
    · rw [exec_request_badOperands hi hw]
      nofun

/-- Under the invariant an operation's next interaction has all it reads (R18). -/
theorem Inv.not_readsUnwritten (h : Inv s) : s.readsUnwritten = false := by
  unfold State.readsUnwritten
  split
  · rename_i op p hp
    obtain ⟨t, ht, -⟩ := interact_inv h hp
    simp [ht]
  · rfl
  · rfl

/-- Settles O60: only an operation that goes on could fault, and under the invariant its next interaction reads written
registers alone. -/
theorem noUnwrittenRegisterIsRead : Obligations.NoUnwrittenRegisterIsRead := by
  intro s f hs
  unfold step
  split
  · split
    · nofun
    · unfold State.resume
      rw [hs.not_readsUnwritten]
      nofun
    · nofun
    · split
      · exact exec_not_fault
      · nofun
  · nofun

end Sys2Proof.Machine
end

section
/-! Proofs about the block's state (10_state.md), second part: the status byte (O7, O8), the values at reset (O24), and what
requests and bare commands leave unchanged of the flags and registers (O26, O27, O50, O51, O54), by way of what one
interaction can do to them. -/

namespace Sys2Proof.Machine

variable {s t u : State} {i : Instr} {op : Op} {p : Point} {site : Site} {stage : Stage} {a : Answer}

/-! ### The status byte -/

/-- Settles O7: bit by bit, `with_bp` takes bits 3:2 from the level and the others from the byte. -/
theorem withBpReplacesOnlyBp : Obligations.WithBpReplacesOnlyBp := by
  have bits (s : Byte) (l : BitVec 2) (n : Nat) (hn : n < 8) : (withBp s l).getLsbD n
      = if 2 ≤ n ∧ n < 4 then l.getLsbD (n - 2) else s.getLsbD n := by
    unfold withBp
    interval_cases n <;> simp
  intro s l
  refine ⟨rfl, rfl, ?_, rfl, rfl, ?_, bits s l 0 (by decide), bits s l 1 (by decide), bits s l 7 (by decide), ?_⟩
  · rfl
  · refine BitVec.eq_of_getLsbD_eq fun n hn => ?_
    simp only [bp, BitVec.getLsbD_extractLsb', bits s l (2 + n) (by omega)]
    simp [hn, show 2 + n < 4 by omega]
  · refine BitVec.eq_of_getLsbD_eq fun n hn => ?_
    simp only [BitVec.getLsbD_extractLsb', bits s l (4 + n) (by omega)]
    simp

/-- Which field a bit of the device's status byte is (R22). -/
theorem Device.status_getLsbD (d : Device) (n : Nat) : d.status.getLsbD n
    = if n < 1 then (BitVec.ofBool d.wip).getLsbD n
      else if n - 1 < 1 then (BitVec.ofBool d.wel).getLsbD (n - 1)
      else if n - 2 < 2 then d.bp.getLsbD (n - 2)
      else if n - 4 < 3 then d.reserved.getLsbD (n - 4) else (BitVec.ofBool d.wpen).getLsbD (n - 7) := by
  change BitVec.getLsbD (w := 1 + 3 + 2 + 1 + 1) (_ ++ _ ++ _ ++ _ ++ _) n = _
  simp only [BitVec.getLsbD_append, Nat.sub_sub]

/-- Settles O8: each accessor reads the bits at which `Device.status_getLsbD` finds its field. -/
theorem statusByteShowsTheFields : Obligations.StatusByteShowsTheFields := by
  intro d
  refine ⟨?_, ?_, ?_, ?_, ?_⟩
  · simp [wip, d.status_getLsbD, -BitVec.getLsbD_eq_getElem]
  · simp [wel, d.status_getLsbD, -BitVec.getLsbD_eq_getElem]
  · refine BitVec.eq_of_getLsbD_eq fun n hn => ?_
    rw [bp, BitVec.getLsbD_extractLsb', d.status_getLsbD]
    simp [hn, show ¬ 2 + n < 1 by omega, -BitVec.getLsbD_eq_getElem]
  · simp [wpen, d.status_getLsbD, -BitVec.getLsbD_eq_getElem]
  · refine BitVec.eq_of_getLsbD_eq fun n hn => ?_
    rw [BitVec.getLsbD_extractLsb', d.status_getLsbD]
    simp [hn, show ¬ 4 + n < 1 by omega, show ¬ 4 + n - 2 < 2 by omega,
      -BitVec.getLsbD_eq_getElem]
/-- Settles O24: each value is `State.reset`'s own. -/
theorem resetStateValues : Obligations.ResetStateValues :=
  ⟨rfl, rfl, rfl, rfl, rfl, rfl, rfl, rfl, rfl, rfl, rfl, rfl, rfl, rfl, rfl, rfl, rfl, rfl, rfl, rfl, rfl, rfl⟩

/-! ### A faulted block -/

/-- Settles O26: every request's meaning begins with `beginRequest`, and that answers for a faulted block. -/
theorem faultedBlockAnswersInternal : Obligations.FaultedBlockAnswersInternal := by
  intro s i hl hq hf hi hw
  obtain ⟨op, body, e⟩ := exec_request hi hw s
  refine ⟨(s.accept op).respond .errInternal, ?_, rfl, ?_, hf, rfl, rfl, rfl, rfl, rfl⟩
  · rw [e, beginRequest_eq hl hq, if_pos hf]
  · simp [hf]

/-- No instruction clears `faulted`: a request is launched on a healthy block only, and so is a command (R15, log 18). -/
theorem exec_keeps_faulted (hf : s.faulted = true) (h : exec i s = .next t) : t.faulted = true := by
  cases hi : isRequest i with
  | true =>
    obtain ⟨u, ha, ⟨r, -, rfl⟩ | ⟨hl, -⟩⟩ := exec_request_comesTo hi h
    · exact ha.faulted.trans hf
    · exact absurd hl.healthy (by simp [ha.faulted, hf])
  | false =>
    obtain ⟨-, -, -, -, rfl⟩ := beginCommand_next (exec_command hi s ▸ h)
    rw [if_pos hf]
    exact hf

/-- Settles O27: a faulted sound block is in phase `FAULTED`, so no operation goes on; idle time is the device's alone, and
no instruction clears the flag. -/
theorem onlyResetClearsFaulted : Obligations.OnlyResetClearsFaulted := by
  intro s t hs hf hr h
  obtain ⟨rest, hh, -⟩ | ⟨op, p, hp, -⟩ | ⟨-, rfl⟩ | ⟨-, e, rest, i, -, -, hx⟩ := step_cases h
  · exact absurd hh (hr rest)
  · exact absurd (hs.faulted_iff.1 hf) (by simp [hp])
  · exact hf
  · exact exec_keeps_faulted (by simpa [presented] using hf) hx

/-! ### What one interaction of a request does to flags, phase and response -/

/-- The request goes on: it stands at a point of its operation (R16), flags and response as they were. -/
structure GoesOn (s t : State) (op : Op) : Prop where
  atPoint : ∃ p, t.phase = .busy op p ∧ p.belongs op = true
  initialized : t.initialized = s.initialized
  faulted : t.faulted = s.faulted
  resp : t.resp = s.resp

/-- The request ends in a response (R17, R131): no operation register holds a value, `resp_value` holds none, `resp_data` is
`READ`'s, `initialized` is moved by an `INIT` or `DEINIT` that answers `OK` alone, and `faulted` by `WRITE` and `ERASE`. -/
structure Finishes (s t : State) (op : Op) : Prop where
  phase : t.phase = if t.faulted then .faulted else .idle
  latch : t.latch = {}
  work : t.work = {}
  code : t.resp.code.isSome
  value : t.resp.value = none
  data : t.resp.data.isSome → op = .read
  initialized : t.initialized = s.initialized
    ∨ (t.resp = { code := some .ok } ∧ op = if t.initialized then .init else .deinit)
  faulted : t.faulted = s.faulted ∨ (op = .write ∨ op = .erase)

/-- What one interaction, or a run, makes of a running request. -/
def MovesOn (s t : State) (op : Op) : Prop := GoesOn s t op ∨ Finishes s t op

/-- `MovesOn` looks at the flags and the response of its first state alone. -/
theorem MovesOn.congr (h : MovesOn u t op) (hi : u.initialized = s.initialized) (hf : u.faulted = s.faulted)
    (hr : u.resp = s.resp) : MovesOn s t op := by
  obtain ⟨hp, h1, h2, h3⟩ | ⟨h1, h2, h3, h4, h5, h6, h7, h8⟩ := h
  · exact .inl ⟨hp, h1.trans hi, h2.trans hf, h3.trans hr⟩
  · exact .inr ⟨h1, h2, h3, h4, h5, h6, hi ▸ h7, hf ▸ h8⟩

theorem GoesOn.trans (h : GoesOn s u op) (k : MovesOn u t op) : MovesOn s t op :=
  k.congr h.initialized h.faulted h.resp

theorem MovesOn.goto (hi : u.initialized = s.initialized) (hf : u.faulted = s.faulted) (hr : u.resp = s.resp)
    (hb : p.belongs op = true) : MovesOn s (u.goto op p) op :=
  .inl ⟨⟨p, rfl, hb⟩, hi, hf, hr⟩

theorem MovesOn.respond (hi : u.initialized = s.initialized) (hf : u.faulted = s.faulted) (e : RespCode) :
    MovesOn s (u.respond e) op :=
  .inr ⟨rfl, rfl, rfl, rfl, rfl, nofun, .inl hi, .inl hf⟩

theorem monitorPass_movesOn (hop : op = .write ∨ op = .erase) (h : s.monitorPass op = some t) : MovesOn s t op := by
  obtain ⟨n, -, h⟩ := Option.bind_eq_some_iff.1 h
  cases h
  split
  · exact .inr ⟨rfl, rfl, rfl, rfl, rfl, nofun, .inl rfl, .inr hop⟩
  · exact .goto rfl rfl rfl (by simpa [Point.belongs] using hop)

theorem monitorEntry_movesOn (hop : op = .write ∨ op = .erase) (h : s.monitorEntry op = some t) : MovesOn s t op := by
  obtain ⟨sr, -, h⟩ := Option.bind_eq_some_iff.1 h
  cases h
  split
  · exact .goto rfl rfl rfl (by simpa [Point.belongs] using hop)
  · exact .goto rfl rfl rfl (by simpa [Point.belongs, Site.belongs] using hop)

theorem monitorSample_movesOn {x : Word} (hop : op = .write ∨ op = .erase) (h : s.monitorSample op x = some t) :
    MovesOn s t op := by
  obtain ⟨l, -, h⟩ := Option.bind_eq_some_iff.1 h
  split at h
  · exact monitorPass_movesOn hop h
  · obtain ⟨e, -, h⟩ := Option.bind_eq_some_iff.1 h
    cases h
    exact .goto rfl rfl rfl (by simpa [Point.belongs, Site.belongs] using hop)

theorem monitorPoll_movesOn (hop : op = .write ∨ op = .erase) (h : s.monitorPoll op = some t) : MovesOn s t op := by
  obtain ⟨sr, -, h⟩ := Option.bind_eq_some_iff.1 h
  split at h
  · obtain ⟨e, -, h⟩ := Option.bind_eq_some_iff.1 h
    split at h
    · cases h
      exact .respond rfl rfl _
    · exact monitorPass_movesOn hop h
  · cases h
    exact .goto rfl rfl rfl (by simpa [Point.belongs, Site.belongs] using hop)

theorem subNext_movesOn (hop : op = .write ∨ op = .erase) (h : s.subNext op = some t) : MovesOn s t op := by
  unfold State.subNext at h
  simp only [bind, Option.bind_eq_some_iff] at h
  obtain ⟨a, -, r, -, o, -, n, -, k, -, sectors, -, h⟩ := h
  split at h
  · unfold State.subStart at h
    simp only [bind, Option.bind_eq_some_iff] at h
    obtain ⟨a, -, r, -, h⟩ := h
    cases h
    exact .goto rfl rfl rfl (by simpa [Point.belongs, Site.belongs] using hop)
  · cases h
    exact .respond rfl rfl _

/-- What follows an answered command of a request (R96, R112 to R118). -/
theorem siteDone_movesOn {l : List Byte} (hop : op ≠ .command) (hb : site.belongs op = true)
    (h : siteDone s op l site = some t) : MovesOn s t op := by
  cases site with
  | initWren | deinitWrdi | subWren | protStatus | protWren => cases h; exact .goto rfl rfl rfl hb
  | protWrite => cases h; exact .respond rfl rfl _
  | initStatus =>
    obtain ⟨sr, -, h⟩ := Option.bind_eq_some_iff.1 h
    cases h
    split
    · exact .inr ⟨rfl, rfl, rfl, rfl, rfl, nofun, .inr ⟨rfl, of_decide_eq_true hb⟩, .inl rfl⟩
    · exact .respond rfl rfl _
  | deinitStatus =>
    obtain ⟨sr, -, h⟩ := Option.bind_eq_some_iff.1 h
    cases h
    split
    · exact .respond rfl rfl _
    · exact .inr ⟨rfl, rfl, rfl, rfl, rfl, nofun, .inr ⟨rfl, of_decide_eq_true hb⟩, .inl rfl⟩
  | monEntry => exact monitorEntry_movesOn (by simpa [Site.belongs] using hb) h
  | monPoll => exact monitorPoll_movesOn (by simpa [Site.belongs] using hb) h
  | subWrite => exact subNext_movesOn (by simpa [Site.belongs] using hb) h
  | readStatus =>
    obtain ⟨sr, -, h⟩ := Option.bind_eq_some_iff.1 h
    cases h
    split
    · exact .respond rfl rfl _
    · exact .goto rfl rfl rfl hb
  | readData =>
    cases h
    exact .inr ⟨rfl, rfl, rfl, rfl, rfl, fun _ => of_decide_eq_true hb, .inl rfl, .inl rfl⟩
  | bare j => simp [Site.belongs, hop] at hb

theorem siteFailed_movesOn (hop : op ≠ .command) (hb : site.belongs op = true) : MovesOn s (siteFailed s site) op := by
  cases site with
  | bare j => simp [Site.belongs, hop] at hb
  | _ => exact .respond rfl rfl _

/-- A command with a data phase is called at a place that has one (R60). -/
theorem hasData_of_dataCall (hi : siteCommand s op site = some i) (hd : (dataCall i).isSome) : site.hasData = true := by
  cases site with
  | protWrite =>
    simp only [siteCommand, bind, Option.bind_eq_some_iff] at hi
    obtain ⟨sr, -, l, -, hi⟩ := hi
    cases hi
    cases hd
  | bare j => cases hi; exact hd
  | initWren | deinitWrdi | subWren | protWren => cases hi; cases hd
  | _ => rfl

/-- What any answer leads to in a request (R17). -/
theorem advance_movesOn (hop : op ≠ .command) (hb : p.belongs op = true) (h : advance s op p a = some t) :
    MovesOn s t op := by
  unfold advance at h
  split at h
  · cases h; exact .goto rfl rfl rfl hb
  · cases h; exact .respond rfl rfl _
  · exact (monitorPass_movesOn (by simpa [Point.belongs] using hb) h).congr rfl rfl rfl
  · exact monitorSample_movesOn (by simpa [Point.belongs] using hb) h
  · obtain ⟨i, hi, h⟩ := Option.bind_eq_some_iff.1 h
    split at h
    · cases h
      exact .goto rfl rfl rfl (Bool.and_eq_true_iff.2 ⟨hb, hasData_of_dataCall hi ‹_›⟩)
    · exact siteDone_movesOn hop hb h
  · obtain ⟨i, -, h⟩ := Option.bind_eq_some_iff.1 h
    exact (siteDone_movesOn hop (Bool.and_eq_true_iff.1 hb).1 h).congr (by simp) (by simp) (by simp)
  · rename_i site stage
    cases h
    refine siteFailed_movesOn hop ?_
    cases stage
    · exact hb
    · exact (Bool.and_eq_true_iff.1 hb).1
  all_goals cases h

/-- One interaction of a running request (R6): unanswered, it changes none of this. -/
theorem GoesOn.interact (hop : op ≠ .command) (h : GoesOn s u op) (ht : u.interact = some t) : MovesOn s t op := by
  obtain ⟨p, hp, hb⟩ := h.atPoint
  obtain ⟨op', p', call, hp', -, ht⟩ := State.interact_cases ht
  obtain ⟨rfl, rfl⟩ : op' = op ∧ p' = p := by simpa using hp'.symm.trans hp
  obtain ⟨-, rfl⟩ | ⟨-, ht⟩ := ht
  · exact .inl ⟨⟨p', hp, hb⟩, h.initialized, h.faulted, h.resp⟩
  · exact h.trans ((advance_movesOn hop hb ht).congr rfl rfl rfl)

theorem Finishes.quiet (h : Finishes s t op) : Quiet t := by
  unfold Quiet
  rw [h.phase]
  cases t.faulted
  · exact .inl rfl
  · exact .inr rfl

theorem Quiet.not_busy (h : Quiet s) (op : Op) (p : Point) : s.phase ≠ .busy op p := by
  obtain h | h := h <;> simp [h]

/-- What a run of a request comes to. -/
theorem runOperation_movesOn (hop : op ≠ .command) (hp : s.phase = .busy op p) (hb : p.belongs op = true) :
    MovesOn s s.runOperation op := by
  refine State.run_induct (P := fun t => MovesOn s t op) ?_ operationFuel s (.inl ⟨⟨p, hp, hb⟩, rfl, rfl, rfl⟩)
  rintro u t (hu | hu) ht
  · exact hu.interact hop ht
  · obtain ⟨op', p', -, hp', -⟩ := State.interact_cases ht
    exact absurd hp' (hu.quiet.not_busy op' p')

/-- A point at which the invariant puts an operation is one of its own (R16). -/
theorem PointInv.belongs (h : PointInv s op p) : p.belongs op = true := by
  cases p with
  | transportInit => exact decide_eq_true h
  | reference => simpa [Point.belongs] using h.1
  | sample => simpa [Point.belongs] using h.1
  | command site stage =>
    cases site with
    | bare i =>
      have hfr (hi : isRequest i = false) : (frameCall {} i).isSome := by cases i <;> first | rfl | cases hi
      cases stage with
      | frame => obtain ⟨rfl, hi, -⟩ := h; exact hfr hi
      | data => obtain ⟨rfl, hi, -, -, hd⟩ := h; exact Bool.and_eq_true_iff.2 ⟨hfr hi, hd⟩
    | _ => cases stage <;> simp_all [PointInv, Point.belongs, Site.belongs, Site.hasData]

theorem Launched.movesOn (h : Launched u op) : MovesOn u u.runOperation op := by
  obtain ⟨p, hp, hpi⟩ := h.atPoint
  exact runOperation_movesOn h.request hp hpi.belongs

/-! ### What a bare command does to flags and registers -/

/-- On its way from `s`, the bare command `i` has changed no flag, latch or response, and of the working registers only `sr`,
and that only as RDSR (R77, R86, log 17). -/
structure BareFrame (i : Instr) (s t : State) : Prop where
  phase : (∃ stage, t.phase = .busy .command (.command (.bare i) stage)) ∨ t.phase = .idle
  initialized : t.initialized = s.initialized
  faulted : t.faulted = s.faulted
  latch : t.latch = s.latch
  resp : t.resp = s.resp
  work : ∃ sr, t.work = { s.work with sr := sr }
  workKept : i ≠ .rdsr → t.work = s.work

theorem BareFrame.trans (h : BareFrame i s u) (k : BareFrame i u t) : BareFrame i s t := by
  obtain ⟨v, hv⟩ := h.work
  obtain ⟨w, hw⟩ := k.work
  exact ⟨k.phase, k.initialized.trans h.initialized, k.faulted.trans h.faulted, k.latch.trans h.latch,
    k.resp.trans h.resp, ⟨w, by rw [hw, hv]⟩, fun hi => (k.workKept hi).trans (h.workKept hi)⟩

theorem takeStatus_bareFrame (l : List Byte) : BareFrame i s ((s.takeStatus i l).bareDone a) := by
  by_cases hi : i = .rdsr
  · subst hi
    exact ⟨.inr rfl, rfl, rfl, rfl, rfl, ⟨_, rfl⟩, fun h => absurd rfl h⟩
  · rw [State.takeStatus_other hi]
    exact ⟨.inr rfl, rfl, rfl, rfl, rfl, ⟨_, rfl⟩, fun _ => rfl⟩

theorem advance_bareFrame (h : advance s .command (.command (.bare i) stage) a = some t) : BareFrame i s t := by
  cases a with
  | time x => cases stage <;> cases h
  | error =>
    have h : some (s.bareDone .error) = some t := by cases stage <;> exact h
    cases h
    exact ⟨.inr rfl, rfl, rfl, rfl, rfl, ⟨_, rfl⟩, fun _ => rfl⟩
  | ok l =>
    cases stage with
    | data => cases h; exact takeStatus_bareFrame l
    | frame =>
      dsimp only [advance, siteCommand, bind, Option.bind_some] at h
      split at h
      · cases h
        exact ⟨.inl ⟨.data, rfl⟩, rfl, rfl, rfl, rfl, ⟨_, rfl⟩, fun _ => rfl⟩
      · cases h
        exact ⟨.inr rfl, rfl, rfl, rfl, rfl, ⟨_, rfl⟩, fun _ => rfl⟩

/-- One interaction of a bare command. -/
theorem interact_bareFrame (hp : s.phase = .busy .command (.command (.bare i) stage)) (ht : s.interact = some t) :
    BareFrame i s t := by
  obtain ⟨op', p', call, hp', -, ht⟩ := State.interact_cases ht
  obtain ⟨rfl, rfl⟩ : op' = .command ∧ p' = .command (.bare i) stage := by simpa using hp'.symm.trans hp
  obtain ⟨-, rfl⟩ | ⟨-, ht⟩ := ht
  · exact ⟨.inl ⟨stage, hp⟩, rfl, rfl, rfl, rfl, ⟨_, rfl⟩, fun _ => rfl⟩
  · obtain ⟨h1, h2, h3, h4, h5, h6, h7⟩ := advance_bareFrame ht
    exact ⟨h1, h2, h3, h4, h5, h6, h7⟩

/-- What a run of a bare command leaves unchanged. -/
theorem runOperation_bareFrame (hp : s.phase = .busy .command (.command (.bare i) stage)) :
    BareFrame i s s.runOperation := by
  refine State.run_induct (P := BareFrame i s) ?_ operationFuel s
    ⟨.inl ⟨stage, hp⟩, rfl, rfl, rfl, rfl, ⟨_, rfl⟩, fun _ => rfl⟩
  intro u t hu ht
  obtain ⟨stage', hp'⟩ | hq := hu.phase
  · exact hu.trans (interact_bareFrame hp' ht)
  · obtain ⟨op', p', -, hp', -⟩ := State.interact_cases ht
    cases hq.symm.trans hp'

/-- A run touches neither the configuration (R7) nor the host. -/
theorem runOperation_cfg_host (s : State) : s.runOperation.cfg = s.cfg ∧ s.runOperation.host = s.host := by
  refine State.run_induct (P := fun t => t.cfg = s.cfg ∧ t.host = s.host) ?_ operationFuel s ⟨rfl, rfl⟩
  rintro u t ⟨hc, hh⟩ ht
  obtain ⟨hc', hh', -⟩ := interactionIsOneCall u t ht
  exact ⟨hc'.trans hc, hh'.trans hh⟩

/-- Settles O50: a faulted block only answers; on a healthy one the run of the transaction keeps `BareFrame`. -/
theorem commandsKeepTheBlock : Obligations.CommandsKeepTheBlock := by
  intro i s t hi h
  obtain ⟨-, -, -, -, rfl⟩ := beginCommand_next (exec_command hi s ▸ h)
  cases hf : s.faulted with
  | true => exact ⟨rfl, rfl, hf, rfl, nofun, fun _ => ⟨rfl, rfl, rfl, by simp [hf], rfl, rfl, rfl, rfl⟩⟩
  | false =>
    have hr : BareFrame i (bareStart s i) (bareStart s i).runOperation := runOperation_bareFrame rfl
    obtain ⟨hc, hh⟩ := runOperation_cfg_host (bareStart s i)
    obtain ⟨sr, hw⟩ := hr.work
    exact ⟨hc, hr.initialized, hr.faulted.trans hf, hh,
      fun _ => ⟨hr.latch, hr.resp, congrArg (fun w : Work => { w with sr := s.work.sr }) hw, hr.workKept⟩, nofun⟩

/-! ### What a request leaves unchanged -/

theorem operationOf_init (h : operationOf i = .init) : i = .init := by cases i <;> first | rfl | cases h
theorem operationOf_deinit (h : operationOf i = .deinit) : i = .deinit := by cases i <;> first | rfl | cases h
theorem operationOf_read (h : operationOf i = .read) : ∃ a n, i = .read a n := by
  cases i <;> first | exact ⟨_, _, rfl⟩ | cases h

/-- Settles O51: a request is answered at once, which touches the response alone, or is launched, and its run keeps
`MovesOn`. -/
theorem requestsKeepTheRest : Obligations.RequestsKeepTheRest := by
  intro i s t hi h
  obtain ⟨u, ha, ⟨r, hr, rfl⟩ | ⟨hl, rfl⟩⟩ := exec_request_comesTo hi h
  · refine ⟨ha.cfg, ha.host, fun _ _ => ha.initialized, fun _ _ => ha.faulted, fun hv => ?_, fun hd => ?_,
      fun _ => ⟨rfl, rfl, ?_⟩⟩ <;> obtain ⟨e, rfl⟩ | ⟨b, hi, rfl⟩ := hr
    · cases hv
    · exact hi
    · cases hd
    · cases hd
    · rfl
    · rfl
  · obtain ⟨hc, hh⟩ := runOperation_cfg_host u
    refine ⟨hc.trans ha.cfg, hh.trans ha.host, ?_⟩
    obtain hg | hg := hl.movesOn
    · obtain ⟨p, hp, -⟩ := hg.atPoint
      have hr : u.runOperation.resp = {} := hg.resp.trans hl.fresh
      exact ⟨fun _ _ => hg.initialized.trans ha.initialized, fun _ _ => hg.faulted.trans ha.faulted, by simp [hr],
        by simp [hr], fun hq => absurd hp (hq _ p)⟩
    · refine ⟨fun h1 h2 => ?_, fun h1 h2 => ?_, by simp [hg.value], fun hd => operationOf_read (hg.data hd),
        fun _ => ⟨hg.latch, hg.work, hg.code⟩⟩
      · obtain hk | ⟨-, hop⟩ := hg.initialized
        · exact hk.trans ha.initialized
        · split at hop
          · exact absurd (operationOf_init hop) h1
          · exact absurd (operationOf_deinit hop) h2
      · obtain hk | hop | hop := hg.faulted
        · exact hk.trans ha.faulted
        · cases i with
          | write a n d => exact absurd rfl (h1 a n d)
          | _ => cases hop
        · cases i with
          | erase a n => exact absurd rfl (h2 a n)
          | _ => cases hop

/-! ### Which steps move `initialized` -/

/-- A run on a healthy block that moves `initialized` ends in `IDLE` with `OK`, and is an `INIT`'s or `DEINIT`'s (R14). -/
theorem MovesOn.initialized_ne (h : MovesOn s t op) (hf : s.faulted = false) (hne : t.initialized ≠ s.initialized) :
    t.resp = { code := some .ok } ∧ t.phase = .idle ∧ op = if t.initialized then .init else .deinit := by
  obtain h | h := h
  · exact absurd h.initialized hne
  · obtain hk | ⟨hr, hop⟩ := h.initialized
    · exact absurd hk hne
    · refine ⟨hr, ?_, hop⟩
      have htf : t.faulted = false := by
        obtain hk | hk := h.faulted
        · exact hk.trans hf
        · revert hop
          obtain rfl | rfl := hk <;> split <;> nofun
      rw [h.phase, htf]
      rfl

/-- A running command is a bare transaction (log 17). -/
theorem bare_of_belongs (hb : p.belongs .command = true) : ∃ i stage, p = .command (.bare i) stage := by
  cases p with
  | command site stage =>
    cases site with
    | bare i => exact ⟨i, stage, rfl⟩
    | _ => cases stage <;> cases hb
  | _ => cases hb

/-- Settles O54: a bare command and idle time keep the flag, and so does an answer at once; a request's run moves it as
`MovesOn.initialized_ne` says, whether it goes on or is presented now. -/
theorem initializedChangesOnlyByInitOrDeinit : Obligations.InitializedChangesOnlyByInitOrDeinit := by
  intro s t hs h hne hreset
  obtain ⟨rest, hh, -⟩ | ⟨op, p, hp, rfl⟩ | ⟨-, rfl⟩ | ⟨-, e, rest, i, hh, hd, hx⟩ := step_cases h
  · exact absurd hh (hreset rest)
  · have hph := hs.phase
    simp only [PhaseInv, hp] at hph
    obtain ⟨hf, hpi, -⟩ := hph
    by_cases hop : op = .command
    · subst hop
      obtain ⟨i, stage, rfl⟩ := bare_of_belongs hpi.belongs
      exact absurd (runOperation_bareFrame hp).initialized hne
    · obtain ⟨hr, hi, ho⟩ := (runOperation_movesOn hop hp hpi.belongs).initialized_ne hf hne
      exact ⟨hr, hi, .inl ⟨p, ho ▸ hp⟩⟩
  · exact absurd rfl hne
  · have hpre : (presented s e rest).initialized = s.initialized := by simp [presented]
    cases hi : isRequest i with
    | false =>
      obtain ⟨-, hk, -⟩ := commandsKeepTheBlock i _ t hi hx
      exact absurd (hk.trans hpre) hne
    | true =>
      obtain ⟨u, ha, ⟨r, -, rfl⟩ | ⟨hl, rfl⟩⟩ := exec_request_comesTo hi hx
      · exact absurd (ha.initialized.trans hpre) hne
      · obtain ⟨hr, hidle, ho⟩ :=
          hl.movesOn.initialized_ne hl.healthy fun hk => hne (hk.trans (ha.initialized.trans hpre))
        refine ⟨hr, hidle, .inr ⟨e, rest, hh, hd.trans (congrArg _ ?_)⟩⟩
        split at ho
        · rw [operationOf_init ho, if_pos ‹_›]
        · rw [operationOf_deinit ho, if_neg ‹_›]

end Sys2Proof.Machine
end

section
/-! Proofs about the device (20_memory.md), first part: a command's bytes have one reading (R60, R64), and what the calls of a
command transaction do at the device. -/

namespace Sys2Proof.Machine

variable {c : Config} {d e : Device} {x : Draw} {i : Instr} {k : Nat}

/-! ### The bytes of a command -/

/-- The opcode bit that carries address bit 8 does carry it (R62). -/
theorem foldA8_getLsbD (c : Config) (opc : Byte) (b : Bool) : (foldA8 c opc b).getLsbD c.a8Bit = b := by
  have := c.a8Bit.isLt
  cases b <;> simp [foldA8, a8Mask, this]

/-- With that bit cleared, the opcode is left (R61, R62). -/
theorem foldA8_and_not_mask {opc : Byte} (h : opc.getLsbD c.a8Bit = false) (b : Bool) :
    foldA8 c opc b &&& ~~~(a8Mask c) = opc := by
  refine BitVec.eq_of_getLsbD_eq fun n hn => ?_
  by_cases hnb : n = c.a8Bit
  · subst hnb
    rw [h]
    simp [a8Mask]
  · have : 1 ≤ n - c.a8Bit ∨ n < c.a8Bit := by omega
    cases b <;> simp [foldA8, a8Mask, hn] <;> grind

/-- A 9-bit address is its bit 8 and its byte 0 (R62). -/
theorem append_addrByte_nine (a : BitVec 9) : BitVec.ofBool (a.getLsbD 8) ++ addrByte a 0 = a := by
  refine BitVec.eq_of_getLsbD_eq fun n hn => ?_
  rw [BitVec.getLsbD_append]
  obtain h | rfl : n < 8 ∨ n = 8 := by omega
  · simp [addrByte, h]
  · simp

/-- A 16-bit address is its bytes, most significant first (R63). -/
theorem append_addrByte_sixteen (a : BitVec 16) : addrByte a 1 ++ addrByte a 0 = a := by
  refine BitVec.eq_of_getLsbD_eq fun n hn => ?_
  simp only [BitVec.getLsbD_append, addrByte, BitVec.getLsbD_extractLsb']
  grind

/-- A 24-bit address is its bytes, most significant first (R63). -/
theorem append_addrByte_twentyfour (a : BitVec 24) : addrByte a 2 ++ addrByte a 1 ++ addrByte a 0 = a := by
  refine BitVec.eq_of_getLsbD_eq fun n hn => ?_
  simp only [BitVec.getLsbD_append, addrByte, BitVec.getLsbD_extractLsb']
  grind

/-- A command's bytes read as that command (R60, R64). -/
theorem decodeWire_encode {w : Wire} (hl : configLegal c = true) (hi : isRequest i = false) (hw : i.wellFormed = true)
    (hf : formatApplies c i = true) (he : encode c i = .command w) : decodeWire c w = .ok i := by
  obtain ⟨-, -, -, -, -, -, -, -, hr, hwr, hop⟩ := configLegal_spec hl
  cases i with
  | wren => cases he; exact if_pos rfl
  | wrdi =>
    cases he
    have : c.opcWrdi ≠ c.opcWren := by simp [opcodes] at hop; grind
    exact (if_neg this).trans (if_pos rfl)
  | rdsr => cases he; exact if_pos rfl
  | wrsr v => cases he; exact if_pos rfl
  | readA1 a m =>
    cases he
    obtain ⟨m, rfl⟩ : ∃ n, m = n + 1 := ⟨m - 1, (Nat.sub_add_cancel (of_decide_eq_true hw)).symm⟩
    have ha : abytes c = 1 := of_decide_eq_true hf
    simp only [frameA1, decodeWire, decodeAddressed, ha, foldA8_getLsbD, append_addrByte_nine, foldA8_and_not_mask hr,
      classify, if_true]
  | readA2 a m =>
    cases he
    obtain ⟨m, rfl⟩ : ∃ n, m = n + 1 := ⟨m - 1, (Nat.sub_add_cancel (of_decide_eq_true hw)).symm⟩
    have ha : abytes c = 2 := of_decide_eq_true hf
    simp only [frameA2, decodeWire, decodeAddressed, ha, append_addrByte_sixteen, classify, if_true]
  | readA3 a m =>
    cases he
    obtain ⟨m, rfl⟩ : ∃ n, m = n + 1 := ⟨m - 1, (Nat.sub_add_cancel (of_decide_eq_true hw)).symm⟩
    have ha : abytes c = 3 := of_decide_eq_true hf
    simp only [frameA3, decodeWire, decodeAddressed, ha, append_addrByte_twentyfour, classify, if_true]
  | writeA1 a p =>
    cases he
    obtain ⟨b, p, rfl⟩ := List.exists_cons_of_length_pos (of_decide_eq_true hw)
    have ha : abytes c = 1 := of_decide_eq_true hf
    simp only [frameA1, List.cons_append, List.nil_append, decodeWire, decodeAddressed, ha, foldA8_getLsbD,
      append_addrByte_nine, foldA8_and_not_mask hwr, classify, if_true]
  | writeA2 a p =>
    cases he
    obtain ⟨b, p, rfl⟩ := List.exists_cons_of_length_pos (of_decide_eq_true hw)
    have ha : abytes c = 2 := of_decide_eq_true hf
    simp only [frameA2, List.cons_append, List.nil_append, decodeWire, decodeAddressed, ha, append_addrByte_sixteen,
      classify, if_true]
  | writeA3 a p =>
    cases he
    obtain ⟨b, p, rfl⟩ := List.exists_cons_of_length_pos (of_decide_eq_true hw)
    have ha : abytes c = 3 := of_decide_eq_true hf
    simp only [frameA3, List.cons_append, List.nil_append, decodeWire, decodeAddressed, ha, append_addrByte_twentyfour,
      classify, if_true]
  | _ => cases hi

/-! ### The calls of a command transaction -/

/-- The three shapes of a command transaction (R60, R78 to R87): one call; a frame and bytes received, by a command that
changes nothing at the device (R40); a frame and a payload sent. -/
inductive Transaction (c : Config) (i : Instr) : Prop where
  | single (f : List Byte) (hf : frameCall c i = some (.transmit f .both)) (hd : dataCall i = none)
      (he : encode c i = .command ⟨f, 0⟩)
  | receive (f : List Byte) (m : Nat) (hf : frameCall c i = some (.transmit f .start))
      (hd : dataCall i = some (.receive m .stop)) (he : encode c i = .command ⟨f, m⟩)
      (hk : ∀ (x : Draw) (keep : Nat → Bool) (d : Device), d.obey c x keep i = d)
  | send (f p : List Byte) (hf : frameCall c i = some (.transmit f .start))
      (hd : dataCall i = some (.transmit p .stop)) (he : encode c i = .command ⟨f ++ p, 0⟩)

theorem transaction_of_command (c : Config) (hi : isRequest i = false) : Transaction c i := by
  cases i with
  | wren | wrdi | wrsr => exact .single _ rfl rfl rfl
  | rdsr | readA1 | readA2 | readA3 => exact .receive _ _ rfl rfl rfl fun _ _ _ => rfl
  | writeA1 | writeA2 | writeA3 => exact .send _ _ rfl rfl rfl
  | _ => cases hi

/-- A command the block may send (R65, R70): its configuration is legal, it is well formed and in the configured format. -/
structure Sendable (c : Config) (i : Instr) : Prop where
  legal : configLegal c = true
  command : isRequest i = false
  wellFormed : i.wellFormed = true
  format : formatApplies c i = true

theorem Sendable.decode {w : Wire} (h : Sendable c i) (he : encode c i = .command w) : decodeWire c w = .ok i :=
  decodeWire_encode h.legal h.command h.wellFormed h.format he

/-- The device has heard the command's frame and no more of it (R58). -/
def Framed (c : Config) (i : Instr) (d : Device) : Prop :=
  ∀ f cs, frameCall c i = some (.transmit f cs) → d.cs = true ∧ d.heard = f

/-- The devices differ in the chip-select line, what was heard and the reserved status bits alone. -/
structure SameCell (d e : Device) : Prop where
  mem : e.mem = d.mem := by rfl
  cycle : e.cycle = d.cycle := by rfl
  wel : e.wel = d.wel := by rfl
  bp : e.bp = d.bp := by rfl
  wpen : e.wpen = d.wpen := by rfl
  wp : e.wp = d.wp := by rfl

theorem SameCell.trans {f : Device} (h : SameCell d e) (k : SameCell e f) : SameCell d f :=
  ⟨k.mem.trans h.mem, k.cycle.trans h.cycle, k.wel.trans h.wel, k.bp.trans h.bp, k.wpen.trans h.wpen, k.wp.trans h.wp⟩

theorem SameCell.byteAt (h : SameCell d e) (a : Nat) : e.byteAt a = d.byteAt a := by
  unfold Device.byteAt
  rw [h.mem]

theorem SameCell.pending {a : Nat} (h : SameCell d e) : Pending e a ↔ Pending d a := by
  unfold Pending
  rw [h.cycle]

theorem Device.passTime_line (c : Config) (x : Draw) (d : Device) :
    (d.passTime c x).cs = d.cs ∧ (d.passTime c x).heard = d.heard := by
  obtain e | e := Device.passTime_cases (c := c) (d := d) (x := x) <;> rw [e]
  · exact ⟨rfl, rfl⟩
  · unfold Device.endCycle
    split <;> exact ⟨rfl, rfl⟩

theorem Framed.passTime (h : Framed c i d) (x : Draw) : Framed c i (d.passTime c x) := by
  intro f cs hf
  obtain ⟨h1, h2⟩ := Device.passTime_line c x d
  rw [h1, h2]
  exact h f cs hf

/-- A transmitted command that ends here is obeyed by the device, but where the call fails: then perhaps, and of a payload
perhaps a part (R39, U10). -/
def Obeyed (c : Config) (x : Draw) (i : Instr) (d e : Device) : Prop :=
  (x.reply = .error ∧ SameCell d e)
    ∨ ∃ keep, (x.reply ≠ .error → keep = fun _ => true) ∧ SameCell (d.obey c x keep i) e

/-- A call that transmits bytes without ending the command moves the line alone. -/
theorem Device.transmit_start (b : List Byte) :
    SameCell d (d.transmit c x b .start)
      ∧ (x.reply ≠ .error → (d.transmit c x b .start).cs = true ∧ (d.transmit c x b .start).heard = b) := by
  unfold Device.transmit
  split
  · refine ⟨?_, fun h => absurd ‹_› h⟩
    split <;> exact {}
  · exact ⟨{}, fun _ => ⟨rfl, rfl⟩⟩

/-- A call that ends the bytes of a command makes the device obey it (R58). -/
theorem Device.transmit_ends {b : List Byte} {cs : CsMode} (hcs : deassertAfter cs = true)
    (hb : decodeWire c ⟨if assertBefore cs then b else if d.cs then d.heard ++ b else [], 0⟩ = .ok i) :
    Obeyed c x i d (d.transmit c x b cs) := by
  have deliver (keep : Nat → Bool) : SameCell (d.obey c x keep i) (d.deliver c x keep b cs) := by
    simp only [Device.deliver, hcs, if_true, Device.finish, hb]
    exact {}
  unfold Device.transmit
  split
  · split
    · exact .inr ⟨_, fun h => absurd ‹_› h, (deliver _).trans {}⟩
    · exact .inl ⟨‹_›, {}⟩
  · exact .inr ⟨_, fun _ => rfl, deliver _⟩

theorem Device.interact_transmit (c : Config) (k : Nat) (x : Draw) (d : Device) (b : List Byte) (cs : CsMode) :
    (d.interact c k x (.transmit b cs)).2 = (d.passTime c x).transmit c x b cs := by
  unfold Device.interact
  dsimp only
  split <;> rfl

theorem Device.interact_receive_sameCell (c : Config) (k : Nat) (x : Draw) (d : Device) (n : Nat) (cs : CsMode) :
    SameCell (d.passTime c x) (d.interact c k x (.receive n cs)).2 := by
  unfold Device.interact
  dsimp only
  split
  · exact {}
  · unfold Device.afterReceive
    split <;> [skip; split] <;> exact {}

/-- The frame of a command with a data phase moves the line alone; answered, the device has heard it. -/
theorem Device.interact_frame {call : Call} (hi : isRequest i = false) (hd : (dataCall i).isSome)
    (hc : frameCall c i = some call) :
    SameCell (d.passTime c x) (d.interact c k x call).2
      ∧ (x.reply ≠ .error → Framed c i (d.interact c k x call).2) := by
  have start {f : List Byte} (hf : frameCall c i = some (.transmit f .start)) :
      SameCell (d.passTime c x) (d.interact c k x call).2
        ∧ (x.reply ≠ .error → Framed c i (d.interact c k x call).2) := by
    cases hc.symm.trans hf
    rw [Device.interact_transmit]
    obtain ⟨h1, h2⟩ := Device.transmit_start (c := c) (d := d.passTime c x) (x := x) f
    refine ⟨h1, fun hr f' cs hf' => ?_⟩
    cases hc.symm.trans hf'
    exact h2 hr
  cases transaction_of_command c hi with
  | single f hf hn => rw [hn] at hd; cases hd
  | receive f m hf => exact start hf
  | send f p hf => exact start hf

/-- The one call of a command without a data phase makes the device obey it. -/
theorem Device.interact_single {call : Call} (h : Sendable c i) (hd : dataCall i = none)
    (hc : frameCall c i = some call) : Obeyed c x i (d.passTime c x) (d.interact c k x call).2 := by
  cases transaction_of_command c h.command with
  | single f hf _ he =>
    cases hc.symm.trans hf
    rw [Device.interact_transmit]
    exact Device.transmit_ends rfl (h.decode he)
  | receive f m hf hn => cases hd.symm.trans hn
  | send f p hf hn => cases hd.symm.trans hn

/-- The data phase of a command the device has heard the frame of makes the device obey it. -/
theorem Device.interact_data {call : Call} (h : Sendable c i) (hf : Framed c i d) (hc : dataCall i = some call) :
    Obeyed c x i (d.passTime c x) (d.interact c k x call).2 := by
  cases transaction_of_command c h.command with
  | single f hf hn => cases hc.symm.trans hn
  | receive f m _ hd _ hk =>
    cases hc.symm.trans hd
    exact .inr ⟨fun _ => true, fun _ => rfl, (hk _ _ _).symm ▸ Device.interact_receive_sameCell c k x d m .stop⟩
  | send f p hfr hd he =>
    cases hc.symm.trans hd
    rw [Device.interact_transmit]
    obtain ⟨h1, h2⟩ := hf.passTime x f .start hfr
    refine Device.transmit_ends rfl ?_
    simp only [assertBefore, h1, h2, if_true, Bool.false_eq_true, if_false]
    exact h.decode he

end Sys2Proof.Machine
end

section
/-! Proofs about the device (20_memory.md), second part: WREN and WRDI (O44), and the end of a write cycle (O55, O56). -/

namespace Sys2Proof.Machine

variable {c : Config} {d e : Device} {x : Draw} {i : Instr} {s t u : State} {op : Op} {p : Point}

/-! ### The write-enable latch -/

/-- A command of one call, answered, computed (R77, log 17). -/
theorem exec_single {f : List Byte} {cs : CsMode} (h : Ready s) (hs : Sendable s.cfg i) (hd : dataCall i = none)
    (hc : frameCall s.cfg i = some (.transmit f cs)) (hx : s.draw.reply = .ok) :
    ∃ t, exec i s = .next t ∧ Transacted s t (.ok []) ∧ t.work = s.work ∧ t.draws = s.draws.tail
      ∧ t.transcript = s.transcript ++ [txOk f cs]
      ∧ t.dev = (s.dev.interact s.cfg s.drawn s.draw (.transmit f cs)).2 := by
  have hdraw : (bareStart s i).draw = s.draw := rfl
  have hans : (bareStart s i).answer (.transmit f cs) = .ok [] := by
    unfold State.answer Device.interact
    rw [hdraw, hx]
  have hint : (bareStart s i).interact = some (((bareStart s i).perform (.transmit f cs)).bareDone (.ok [])) := by
    rw [State.interact_answered (op := .command) rfl (by exact hc) (by rw [hdraw, hx]; nofun), hans]
    simp [advance, siteCommand, siteDone, hd]
  refine ⟨_, (exec_command hs.command s).trans
    (beginCommand_eq h.legal hs.wellFormed hs.format (.inl h.idle)), ?_⟩
  rw [if_neg (by simp [h.healthy]),
    (Steps.step hint rfl (.refl _)).runOperation (fun _ _ => nofun) (by decide)]
  refine ⟨⟨rfl, rfl, rfl, rfl, rfl, rfl, rfl, rfl, rfl⟩, rfl, rfl, ?_, rfl⟩
  change s.transcript ++ [⟨_, (bareStart s i).answer _⟩] = _
  rw [hans]
  rfl

/-- What WREN and WRDI do to WEL (R52, U13). -/
theorem Device.setLatch_wel (x : Draw) (d : Device) (v : Bool) :
    ((d.wip && !x.latchInCycle) = false → (d.setLatch x v).wel = v)
      ∧ ((d.wip && !x.latchInCycle) = true → (d.setLatch x v).wel = d.wel) := by
  unfold Device.setLatch
  exact ⟨fun h => by simp [h], fun h => by simp [h]⟩

/-- An answered call obeyed leaves what the command leaves. -/
theorem Obeyed.answered (h : Obeyed c x i d e) (hr : x.reply ≠ .error) : SameCell (d.obey c x (fun _ => true) i) e := by
  obtain ⟨he, -⟩ | ⟨keep, hk, h⟩ := h
  · exact absurd he hr
  · exact hk hr ▸ h

/-- A command that sets the latch, answered: the device does as `setLatch_wel` says. -/
theorem exec_latch {f : List Byte} {v : Bool} {rest : List Draw} (h : Ready s) (hdr : s.draws = x :: rest) (hx : Answers x)
    (hs : Sendable s.cfg i) (hd : dataCall i = none) (hc : frameCall s.cfg i = some (.transmit f .both))
    (ho : ∀ d : Device, d.obey s.cfg x (fun _ => true) i = d.setLatch x v) :
    ∃ t, exec i s = .next t ∧ Transacted s t (.ok []) ∧ t.work = s.work ∧ t.draws = rest
      ∧ t.transcript = s.transcript ++ [txOk f .both]
      ∧ (((s.dev.passTime s.cfg x).wip && !x.latchInCycle) = false → t.dev.wel = v)
      ∧ (((s.dev.passTime s.cfg x).wip && !x.latchInCycle) = true → t.dev.wel = (s.dev.passTime s.cfg x).wel) := by
  have hdraw : s.draw = x := by unfold State.draw; rw [hdr]
  obtain ⟨t, ht, hta, hwork, hdraws, htr, hdev⟩ := exec_single h hs hd hc (hdraw ▸ hx)
  have hw : SameCell ((s.dev.passTime s.cfg x).setLatch x v) t.dev := by
    rw [hdev, hdraw, ← ho]
    exact (Device.interact_single hs hd hc).answered (by rw [hx]; nofun)
  obtain ⟨hacc, hign⟩ := Device.setLatch_wel x (s.dev.passTime s.cfg x) v
  exact ⟨t, ht, hta, hwork, by rw [hdraws, hdr]; rfl, htr, fun g => hw.wel.trans (hacc g), fun g => hw.wel.trans (hign g)⟩

/-- Settles O44: each is a command of one call that makes the device set its latch. -/
theorem latchCommandsSetAndClearWel : Obligations.LatchCommandsSetAndClearWel := fun _ _ _ h hdr hx =>
  ⟨exec_latch h hdr hx ⟨h.legal, rfl, rfl, rfl⟩ rfl rfl fun _ => rfl,
    exec_latch h hdr hx ⟨h.legal, rfl, rfl, rfl⟩ rfl rfl fun _ => rfl⟩

/-! ### The end of a cycle -/

/-- A commit changes no protected byte (R55). -/
theorem commits_read_protected {a : Nat} (ha : d.writeProtected c a = true) (ws : List (Nat × Byte)) :
    ∀ m : Memory, Memory.read (ws.foldl (d.commitByte c) m) a = m.read a := by
  induction ws with
  | nil => exact fun _ => rfl
  | cons w ws ih =>
    intro m
    rw [List.foldl_cons, ih]
    unfold Device.commitByte
    split
    · rfl
    · refine Memory.read_write_other m (fun h => ?_) _
      subst h
      contradiction

/-- The last byte of a record for an address is what its commit leaves there, where it is not protected (R55). -/
theorem commits_read_last {a : Nat} {v : Byte} (ha : d.writeProtected c a = false) (ws zs : List (Nat × Byte))
    (hz : ∀ w ∈ zs, w.1 ≠ a) (m : Memory) :
    Memory.read ((ws ++ (a, v) :: zs).foldl (d.commitByte c) m) a = some v := by
  rw [List.foldl_append, List.foldl_cons, commits_read zs hz, Device.commitByte, if_neg (by simp [ha])]
  exact Memory.read_write_same _ _ _

/-- Which addresses are protected (R42, R43). -/
theorem writeProtected_iff (c : Config) (d : Device) (a : Nat) :
    d.writeProtected c a = true ↔ (c.bpNeedsWp = true → d.wp = true)
      ∧ ((d.bp = 1 ∧ 3 * capacity c / 4 ≤ a) ∨ (d.bp = 2 ∧ capacity c / 2 ≤ a) ∨ d.bp = 3) := by
  have range : protectedRange c d.bp a = true
      ↔ (d.bp = 1 ∧ 3 * capacity c / 4 ≤ a) ∨ (d.bp = 2 ∧ capacity c / 2 ≤ a) ∨ d.bp = 3 := by
    unfold protectedRange
    obtain h | h | h | h : d.bp = 0 ∨ d.bp = 1 ∨ d.bp = 2 ∨ d.bp = 3 := by
      generalize d.bp = b
      revert b
      decide
    all_goals rw [h]; simp
  unfold Device.writeProtected
  rw [Bool.and_eq_true, range, and_comm]
  cases c.bpNeedsWp <;> simp

/-- Settles O56: a commit skips protected addresses, and R42's ranges are those of `writeProtected_iff`. -/
theorem protectedBytesSurviveACycle : Obligations.ProtectedBytesSurviveACycle := by
  intro c d a
  refine ⟨fun ha => ?_, writeProtected_iff c d a⟩
  unfold Device.endCycle
  cases d.cycle with
  | none => rfl
  | some y => exact congrArg (Option.getD · _) (commits_read_protected ha _ _)

/-- Within its page and the array, a payload's byte goes to its own address (R55). -/
theorem pageAddress_eq {a j : Nat} (hp : a % c.pageSize + j < c.pageSize) (hc : a + j < capacity c) :
    pageAddress c a j = a + j := by
  have := Nat.mod_le a c.pageSize
  rw [pageAddress, Nat.mod_eq_of_lt hp, show a - a % c.pageSize + (a % c.pageSize + j) = a + j by omega,
    Nat.mod_eq_of_lt hc]

/-- A payload's record, cut at one of its bytes: the byte's entry, and after it the entries of the later ones (R55). -/
theorem pageWrites_cut {a j : Nat} {p : List Byte} {v : Byte} (hj : p[j]? = some v) :
    ∃ ws zs, pageWrites c a p (fun _ => true) = ws ++ (pageAddress c a j, v) :: zs
      ∧ ∀ w ∈ zs, ∃ n, j < n ∧ n < p.length ∧ w.1 = pageAddress c a n := by
  obtain ⟨hlt, hv⟩ := List.getElem?_eq_some_iff.1 hj
  have hcut : p = p.take j ++ v :: p.drop (j + 1) := by
    rw [← hv, List.cons_getElem_drop_succ, List.take_append_drop]
  refine ⟨pageWrites c a (p.take j) fun _ => true,
    ((p.drop (j + 1)).zipIdx (j + 1)).map fun w => (pageAddress c a w.2, w.1), ?_, fun w hw => ?_⟩
  · unfold pageWrites
    conv_lhs => rw [hcut]
    simp [List.zipIdx_append, Nat.min_eq_left (Nat.le_of_lt hlt)]
  · obtain ⟨⟨b, n⟩, hn, rfl⟩ := List.mem_map.1 hw
    have := List.mem_zipIdx hn
    simp only [List.length_drop] at this
    exact ⟨n, by omega, by omega, rfl⟩

/-- A WRITE command the device accepts: after its cycle the array is the record's commit (R54, R55). -/
theorem Device.startWrite_endCycle {a : Nat} {p : List Byte} (hc : d.cycle = none) (hw : d.wel = true) :
    (d.startWrite c a p fun _ => true).endCycle c
      = { d with
          mem := (pageWrites c a p fun _ => true).foldl (d.commitByte c) d.mem
          wel := false
          cycle := none } := by
  have : d.startWrite c a p (fun _ => true) = { d with cycle := some ⟨pageWrites c a p fun _ => true, none⟩ } := by
    simp [Device.startWrite, Device.wip, hc, hw]
  rw [this]
  rfl

/-- Settles O55: within the page `pageAddress` is the address itself, so the addresses of the record are distinct and none is
outside the payload's range. -/
theorem acceptedWriteIsCommitted : Obligations.AcceptedWriteIsCommitted := by
  intro c d a p hl hc hw hp hcap
  have here {j : Nat} (hj : j < p.length) : pageAddress c a j = a + j := pageAddress_eq (by omega) (by omega)
  rw [Device.startWrite_endCycle hc hw]
  refine ⟨fun j v hj ha => ?_, fun b hb => ?_, rfl, rfl⟩
  · obtain ⟨ws, zs, hcut, hz⟩ := pageWrites_cut (c := c) (a := a) hj
    have hlt := (List.getElem?_eq_some_iff.1 hj).1
    rw [here hlt] at hcut
    have later (w) (hw : w ∈ zs) : w.1 ≠ a + j := by
      obtain ⟨n, hn, hnp, e⟩ := hz w hw
      rw [e, here hnp]
      omega
    have hr := commits_read_last (v := v) ha ws zs later d.mem
    simp only [Device.byteAt, hcut, hr, Option.getD_some]
  · refine congrArg (Option.getD · _) (commits_read _ (fun w hw => ?_) _)
    obtain ⟨j, hj, e⟩ := pageWrites_mem hw
    rw [e, here hj]
    omega

end Sys2Proof.Machine
end

section
/-! Proofs about the device (20_memory.md), third part: what an answer leads to, point by point (R17), and what holds at every
interaction of an instruction's run: the registers of its point, the range latched, and the frame the device has heard. -/

namespace Sys2Proof.Machine

variable {c : Config} {d e : Device} {x : Draw} {i : Instr} {s t u : State} {op : Op} {p q : Point} {site : Site}
  {stage : Stage} {a : Answer}

/-! ### What an answer leads to -/

/-- Where the pseudocode can be after the answer `a` at the point `p`, other than in a data phase: a sub-transfer follows its
WREN, and that a status read with WIP clear (R96, R115). -/
def Follows (p : Point) (a : Answer) : Point → Prop
  | .command .subWrite .frame => p = .command .subWren .frame ∧ ∃ l, a = .ok l
  | .command .subWren .frame =>
    (p = .command .monEntry .data ∨ p = .command .monPoll .data) ∧ ∃ l b, a = .ok l ∧ l.head? = some b ∧ wip b = false
  | .command (.bare _) _ | .command _ .data => False
  | _ => True

/-- What an answer leads to (R17). -/
inductive Leads (s t : State) (op : Op) (p : Point) (a : Answer) : Prop where
  /-- A command's frame is answered, and its data phase is next (R60, R146). -/
  | data {site : Site} {j : Instr} {l : List Byte} (hp : p = .command site .frame) (ha : a = .ok l)
      (hj : siteCommand s op site = some j) (hd : (dataCall j).isSome) (ht : t = s.goto op (.command site .data))
  /-- Another point is next, the latched registers as they were. -/
  | on {q : Point} (hq : t.phase = .busy op q) (hl : t.latch = s.latch)
      (ho : p ≠ .command .subWrite .data → t.work.offset = s.work.offset) (hf : Follows p a q)
  /-- The operation ends; a `WRITE` or `ERASE` with `OK` after an answered sub-transfer alone. -/
  | ends (hq : Quiet t)
      (hok : op = .write ∨ op = .erase → t.resp.code = some .ok → p = .command .subWrite .data ∧ ∃ l, a = .ok l)

/-- The operation goes on to a point, the latched registers and the sub-transfer's offset as they were. -/
structure GoesTo (s t : State) (op : Op) (q : Point) : Prop where
  phase : t.phase = .busy op q := by rfl
  latch : t.latch = s.latch := by rfl
  offset : t.work.offset = s.work.offset := by rfl

/-- The operation has ended, and not with `OK`. -/
def Fails (t : State) : Prop := Quiet t ∧ t.resp.code ≠ some .ok

theorem GoesTo.leads (h : GoesTo u t op q) (hl : u.latch = s.latch) (ho : u.work.offset = s.work.offset)
    (hf : Follows p a q) : Leads s t op p a :=
  .on h.phase (h.latch.trans hl) (fun _ => h.offset.trans ho) hf

theorem Fails.leads (h : Fails t) : Leads s t op p a := .ends h.1 fun _ hok => absurd hok h.2

theorem respondWith_quiet (s : State) (r : Resp) : Quiet (s.respondWith r) := by
  unfold Quiet
  rw [State.respondWith_phase]
  cases s.faulted <;> simp

theorem respond_fails (s : State) (e : RespCode) (he : e ≠ .ok) : Fails (s.respond e) :=
  ⟨respondWith_quiet s _, by simpa using he⟩

theorem monitorPass_leads (h : s.monitorPass op = some t) : GoesTo s t op .sample ∨ Fails t := by
  obtain ⟨n, -, h⟩ := Option.bind_eq_some_iff.1 h
  cases h
  split
  · exact .inr (respond_fails _ .errInternal (by decide))
  · exact .inl {}

/-- WIP is clear, and the caller's WREN is next (R96, R97). -/
def MonitorLeaves (s t : State) (op : Op) : Prop :=
  GoesTo s t op (.command .subWren .frame) ∧ ∃ b, s.work.sr = some b ∧ wip b = false

theorem monitorEntry_leads (h : s.monitorEntry op = some t) : GoesTo s t op .reference ∨ MonitorLeaves s t op := by
  obtain ⟨b, hb, h⟩ := Option.bind_eq_some_iff.1 h
  cases h
  split
  · exact .inl {}
  · exact .inr ⟨{}, b, hb, Bool.eq_false_iff.2 ‹_›⟩

theorem monitorSample_leads {y : Word} (h : s.monitorSample op y = some t) :
    GoesTo s t op .sample ∨ GoesTo s t op (.command .monPoll .frame) ∨ Fails t := by
  obtain ⟨l, -, h⟩ := Option.bind_eq_some_iff.1 h
  split at h
  · exact (monitorPass_leads h).imp_right .inr
  · obtain ⟨n, -, h⟩ := Option.bind_eq_some_iff.1 h
    cases h
    exact .inr (.inl {})

theorem monitorPoll_leads (h : s.monitorPoll op = some t) :
    GoesTo s t op .sample ∨ MonitorLeaves s t op ∨ Fails t := by
  obtain ⟨b, hb, h⟩ := Option.bind_eq_some_iff.1 h
  split at h
  · obtain ⟨n, -, h⟩ := Option.bind_eq_some_iff.1 h
    split at h
    · cases h
      exact .inr (.inr (respond_fails _ .errTimeout (by decide)))
    · exact (monitorPass_leads h).imp_right .inr
  · cases h
    exact .inr (.inl ⟨{}, b, hb, Bool.eq_false_iff.2 ‹_›⟩)

theorem subNext_leads (h : s.subNext op = some t) :
    (t.phase = .busy op (.command .monEntry .frame) ∧ t.latch = s.latch) ∨ Quiet t := by
  unfold State.subNext at h
  simp only [bind, Option.bind_eq_some_iff] at h
  obtain ⟨a, -, r, -, o, -, n, -, k, -, sectors, -, h⟩ := h
  split at h
  · unfold State.subStart at h
    simp only [bind, Option.bind_eq_some_iff] at h
    obtain ⟨a, -, r, -, h⟩ := h
    cases h
    exact .inl ⟨rfl, rfl⟩
  · cases h
    exact .inr (respondWith_quiet _ _)

/-- What follows a command's last answer, `sr` holding the byte of a status read. -/
theorem siteDone_leads {l l' : List Byte} (hb : site.belongs op = true)
    (hst : stage = if site.hasData then .data else .frame) (hl : u.latch = s.latch)
    (ho : u.work.offset = s.work.offset) (hsr : site = .monEntry ∨ site = .monPoll → u.work.sr = l'.head?)
    (h : siteDone u op l site = some t) : Leads s t op (.command site stage) (.ok l') := by
  have on {q : Point} (hg : GoesTo u t op q) (hf : Follows (.command site stage) (.ok l') q) := hg.leads hl ho hf
  have leaves (hm : MonitorLeaves u t op) (hs : site = .monEntry ∨ site = .monPoll) :
      Leads s t op (.command site stage) (.ok l') := by
    obtain ⟨hg, b, hsb, hw⟩ := hm
    refine on hg ⟨?_, l', b, rfl, (hsr hs).symm.trans hsb, hw⟩
    obtain rfl | rfl := hs <;> subst hst
    · exact .inl rfl
    · exact .inr rfl
  have other (hq : Quiet t) (hs : ∀ o, o = .write ∨ o = .erase → site.belongs o = false) :
      Leads s t op (.command site stage) (.ok l') :=
    .ends hq fun hop => absurd hb (by simp [hs op hop])
  cases site with
  | initWren => cases h; exact on (q := .command .initStatus .frame) {} trivial
  | deinitWrdi => cases h; exact on (q := .command .deinitStatus .frame) {} trivial
  | subWren => cases h; subst hst; exact on (q := .command .subWrite .frame) {} ⟨rfl, l', rfl⟩
  | protStatus => cases h; exact on (q := .command .protWren .frame) {} trivial
  | protWren => cases h; exact on (q := .command .protWrite .frame) {} trivial
  | monEntry =>
    obtain hg | hm := monitorEntry_leads h
    · exact on hg trivial
    · exact leaves hm (.inl rfl)
  | monPoll =>
    obtain hg | hm | hf := monitorPoll_leads h
    · exact on hg trivial
    · exact leaves hm (.inr rfl)
    · exact hf.leads
  | subWrite =>
    subst hst
    obtain ⟨hp, hlt⟩ | hq := subNext_leads h
    · exact .on hp (hlt.trans hl) (fun hn => absurd rfl hn) trivial
    · exact .ends hq fun _ _ => ⟨rfl, l', rfl⟩
  | initStatus | deinitStatus =>
    obtain ⟨sr, -, h⟩ := Option.bind_eq_some_iff.1 h
    cases h
    refine other ?_ (by rintro _ (rfl | rfl) <;> rfl)
    split <;> exact respondWith_quiet _ _
  | readStatus =>
    obtain ⟨sr, -, h⟩ := Option.bind_eq_some_iff.1 h
    by_cases hw : wip sr = true
    · rw [if_pos hw] at h
      cases h
      exact other (respondWith_quiet _ _) (by rintro _ (rfl | rfl) <;> rfl)
    · rw [if_neg hw] at h
      cases h
      exact on (q := .command .readData .frame) {} trivial
  | readData | protWrite =>
    cases h
    exact other (respondWith_quiet _ _) (by rintro _ (rfl | rfl) <;> rfl)
  | bare j =>
    cases h
    exact other (.inl rfl) (by rintro _ (rfl | rfl) <;> rfl)

theorem siteFailed_leads (hb : site.belongs op = true) :
    Leads s (siteFailed s site) op (.command site stage) .error := by
  cases site with
  | bare j => exact .ends (.inl rfl) (by rintro (rfl | rfl) <;> cases hb)
  | _ => exact (respond_fails s .errTransport (by decide)).leads

theorem State.takeStatus_offset (s : State) (i : Instr) (l : List Byte) :
    (s.takeStatus i l).work.offset = s.work.offset := by
  unfold State.takeStatus
  split <;> rfl

theorem advance_leads (hb : p.belongs op = true) (h : advance s op p a = some t) : Leads s t op p a := by
  unfold advance at h
  split at h
  · cases h
    exact GoesTo.leads (q := .command .initWren .frame) {} rfl rfl trivial
  · cases h
    exact (respond_fails s .errTransport (by decide)).leads
  · obtain hg | hf := monitorPass_leads h
    · exact hg.leads rfl rfl trivial
    · exact hf.leads
  · obtain hg | hg | hf := monitorSample_leads h
    · exact hg.leads rfl rfl trivial
    · exact hg.leads rfl rfl trivial
    · exact hf.leads
  · rename_i site l
    obtain ⟨j, hj, h⟩ := Option.bind_eq_some_iff.1 h
    split at h
    · cases h
      exact .data rfl rfl hj ‹_› rfl
    · have hn : site.hasData = false :=
        Bool.eq_false_iff.2 fun hs => ‹¬ _› ((siteCommand_calls s.cfg hb hj).2 hs)
      refine siteDone_leads hb (by rw [hn]; rfl) rfl rfl ?_ h
      rintro (rfl | rfl) <;> cases hn
  · rename_i site l
    obtain ⟨hb, hd⟩ := Bool.and_eq_true_iff.1 hb
    obtain ⟨j, hj, h⟩ := Option.bind_eq_some_iff.1 h
    refine siteDone_leads hb (by rw [hd]; rfl) (by simp) (s.takeStatus_offset j l) ?_ h
    rintro (rfl | rfl) <;> cases hj <;> rfl
  · rename_i site stage
    cases h
    refine siteFailed_leads ?_
    cases stage
    · exact hb
    · exact (Bool.and_eq_true_iff.1 hb).1
  all_goals cases h

end Sys2Proof.Machine
end

section
/-! Proofs about the device (20_memory.md), fourth part: what holds at every interaction of an instruction's run, and with it
what instructions leave unchanged at the device (O52, O53). -/

namespace Sys2Proof.Machine

variable {c : Config} {d e : Device} {x : Draw} {i : Instr} {s t u : State} {op : Op} {p q : Point} {site : Site}
  {stage : Stage} {addr size : Word}

/-! ### The command of a sub-transfer -/

/-- An address of the array keeps its value in the configured format (R74). -/
theorem toNat_setWidth_format {a : Word} (hl : configLegal c = true) (ha : a.toNat < capacity c) :
    (abytes c = 1 → (a.setWidth 9).toNat = a.toNat) ∧ (abytes c = 2 → (a.setWidth 16).toNat = a.toNat)
      ∧ (a.setWidth 24).toNat = a.toNat := by
  have bits {n : Nat} (hn : c.addrBits ≤ n) : (a.setWidth n).toNat = a.toNat := by
    rw [BitVec.toNat_setWidth]
    exact Nat.mod_eq_of_lt (Nat.lt_of_lt_of_le ha (Nat.pow_le_pow_right (by decide) hn))
  refine ⟨fun h => bits ?_, fun h => bits ?_, bits (configLegal_spec hl).2.1⟩
  · unfold abytes at h
    grind
  · unfold abytes at h
    grind

/-- The WRITE command of an address of the array, in whatever format: sendable, obeyed as a WRITE at that address, and storing
to the payload's page addresses (R55, R64). -/
theorem sendWrite_spec {a : Word} {b : List Byte} (hl : configLegal c = true) (ha : a.toNat < capacity c)
    (hb : 1 ≤ b.length) :
    Sendable c (sendWrite c a b)
      ∧ (∀ (d : Device) (x : Draw) (keep : Nat → Bool),
        d.obey c x keep (sendWrite c a b) = d.startWrite c a.toNat b keep)
      ∧ ∀ y, storesTo c (sendWrite c a b) y → ∃ j < b.length, y = pageAddress c a.toNat j := by
  obtain ⟨h1, h2, h3⟩ := toNat_setWidth_format hl ha
  have hw := decide_eq_true hb
  unfold sendWrite
  split
  · rename_i hf
    rw [← h1 hf]
    exact ⟨⟨hl, rfl, hw, decide_eq_true hf⟩, fun _ _ _ => rfl, fun _ h => h⟩
  · split
    · rename_i hf
      rw [← h2 hf]
      exact ⟨⟨hl, rfl, hw, decide_eq_true hf⟩, fun _ _ _ => rfl, fun _ h => h⟩
    · rw [← h3]
      have hf : abytes c = 3 := by have := abytes_cases c; omega
      exact ⟨⟨hl, rfl, hw, decide_eq_true hf⟩, fun _ _ _ => rfl, fun _ h => h⟩

/-- The READ command of an address of the array, in whatever format: sendable, and answered with a READ at that address
(R56, R64). -/
theorem sendRead_spec {a : Word} {m : Nat} (hl : configLegal c = true) (ha : a.toNat < capacity c) (hm : 1 ≤ m) :
    Sendable c (sendRead c a m)
      ∧ ∀ (k n : Nat) (d : Device), d.cs = true → decodeWire c ⟨d.heard, n⟩ = .ok (sendRead c a m) →
        d.output c k .stop n = d.answerRead c k a.toNat m := by
  obtain ⟨h1, h2, h3⟩ := toNat_setWidth_format hl ha
  have hw := decide_eq_true hm
  unfold sendRead
  split
  · rename_i hf
    rw [← h1 hf]
    exact ⟨⟨hl, rfl, hw, decide_eq_true hf⟩, fun k n d hcs hd => by simp [Device.output, assertBefore, hcs, hd]⟩
  · split
    · rename_i hf
      rw [← h2 hf]
      exact ⟨⟨hl, rfl, hw, decide_eq_true hf⟩, fun k n d hcs hd => by simp [Device.output, assertBefore, hcs, hd]⟩
    · rw [← h3]
      have hf : abytes c = 3 := by have := abytes_cases c; omega
      exact ⟨⟨hl, rfl, hw, decide_eq_true hf⟩, fun k n d hcs hd => by simp [Device.output, assertBefore, hcs, hd]⟩

/-- The sub-transfer in progress (R89, R90, R91): `n` bytes `b` at `a`, the range's offset `o`. -/
structure SubTransfer (s : State) (op : Op) (addr size a o n : Word) (b : List Byte) : Prop where
  command : siteCommand s op .subWrite = some (sendWrite s.cfg a b)
  latchAddr : s.latch.addr = some addr
  latchSize : s.latch.size = some size
  offset : s.work.offset = some o
  transfer : s.work.n = some n
  length : b.length = n.toNat
  pos : 1 ≤ n.toNat
  start : a.toNat = addr.toNat + o.toNat
  fits : o.toNat + n.toNat ≤ size.toNat
  inArray : addr.toNat + size.toNat ≤ capacity s.cfg
  inPage : a.toNat % s.cfg.pageSize + n.toNat ≤ s.cfg.pageSize
  data : op = .write → ∃ data, s.latch.data = some data ∧ data.length = size.toNat ∧ b = (data.drop o.toNat).take n.toNat

theorem WriteInv.subTransfer (hl : configLegal s.cfg = true) (hop : op = .write ∨ op = .erase) (h : WriteInv s op) :
    ∃ addr size a o n b, SubTransfer s op addr size a o n b := by
  obtain ⟨addr, size, a, r, o, sectors, k, n, g1, g2, g3, g4, g5, g6, g7, g8, b1, b2, b3, b4, b5, b6, b7, b8, b9, b10⟩ :=
    h.regs
  obtain ⟨hn, hnr, hpage, -⟩ := transferSize_spec (a := a.toNat) (configLegal_spec hl).2.2.1 b4
  rw [← b9] at hn hnr hpage
  have sub {b : List Byte} (hc : siteCommand s op .subWrite = some (sendWrite s.cfg a b)) (hb : b.length = n.toNat)
      (hd : op = .write → ∃ data, s.latch.data = some data ∧ data.length = size.toNat
        ∧ b = (data.drop o.toNat).take n.toNat) : SubTransfer s op addr size a o n b :=
    ⟨hc, g1, g2, g5, g8, hb, hn, b2, by omega, b1, hpage, hd⟩
  obtain rfl | rfl := hop
  · obtain ⟨data, hd, hlen⟩ := b10 rfl
    refine ⟨addr, size, a, o, n, (data.drop o.toNat).take n.toNat, sub ?_ ?_ fun _ => ⟨data, hd, hlen, rfl⟩⟩
    · simp only [siteCommand, payload, g3, g8, hd, g5]
      rfl
    · simp only [List.length_take, List.length_drop]
      omega
  · refine ⟨addr, size, a, o, n, List.replicate n.toNat s.cfg.eraseValue, sub ?_ List.length_replicate nofun⟩
    simp only [siteCommand, payload, g3, g8]
    rfl

theorem SubTransfer.address_lt {a o n : Word} {b : List Byte} (h : SubTransfer s op addr size a o n b) :
    a.toNat < capacity s.cfg := by
  have := h.start
  have := h.fits
  have := h.inArray
  have := h.pos
  omega

/-! ### The command of a point -/

/-- The command called at a point is one the block may send (R65, R70). -/
theorem PointInv.sendable (hl : configLegal s.cfg = true) (h : PointInv s op (.command site stage)) :
    ∃ j, siteCommand s op site = some j ∧ Sendable s.cfg j := by
  cases site with
  | subWrite =>
    obtain ⟨hop, hwi⟩ : (op = .write ∨ op = .erase) ∧ WriteInv s op := by cases stage <;> exact h
    obtain ⟨addr, size, a, o, n, b, hs⟩ := hwi.subTransfer hl hop
    exact ⟨_, hs.command, (sendWrite_spec hl hs.address_lt (by rw [hs.length]; exact hs.pos)).1⟩
  | readData =>
    obtain ⟨-, addr, size, ha, hs, h1, hcap⟩ : op = .read ∧ ReadInv s := by cases stage <;> exact h
    exact ⟨sendRead s.cfg addr size.toNat, by simp only [siteCommand, ha, hs]; rfl,
      (sendRead_spec hl (by omega) h1).1⟩
  | protWrite =>
    cases stage with
    | data => exact h.elim
    | frame =>
      obtain ⟨-, ⟨l, hl'⟩, v, hv⟩ := h
      exact ⟨.wrsr (withBp v l), by simp only [siteCommand, hl', hv]; rfl, hl, rfl, rfl, rfl⟩
  | bare j =>
    obtain ⟨hi, hw, hf⟩ : isRequest j = false ∧ j.wellFormed = true ∧ formatApplies s.cfg j = true := by
      cases stage
      · exact h.2
      · exact ⟨h.2.1, h.2.2.1, h.2.2.2.1⟩
    exact ⟨j, rfl, hl, hi, hw, hf⟩
  | _ => exact ⟨_, rfl, hl, rfl, rfl, rfl⟩

/-! ### A run, interaction by interaction -/

/-- The range a `WRITE` or `ERASE` latches (R107). -/
def LatchedFor (l : Latch) : Instr → Prop
  | .write addr size data => l.addr = some addr ∧ l.size = some size ∧ l.data = some data
  | .erase addr size => l.addr = some addr ∧ l.size = some size
  | _ => True

/-- What holds at each interaction of the run of an instruction. -/
structure Engaged (i : Instr) (s : State) (op : Op) (p : Point) : Prop where
  legal : configLegal s.cfg = true
  operation : op = operationOf i
  atPoint : PointInv s op p
  running : op ≠ .command → Running s op
  bare : ∀ j stage, p = .command (.bare j) stage → j = i
  latched : LatchedFor s.latch i
  framed : ∀ site j, p = .command site .data → siteCommand s op site = some j → Framed s.cfg j s.dev

/-- The run of an instruction, at any of its interactions or at its end. -/
def Engages (i : Instr) (s : State) : Prop := ∀ op p, s.phase = .busy op p → Engaged i s op p

theorem Quiet.engages (h : Quiet s) (i : Instr) : Engages i s := fun op p hp => absurd hp (h.not_busy op p)

theorem siteCommand_congr (hc : t.cfg = s.cfg) (hl : t.latch = s.latch) (hw : t.work = s.work) (op : Op) (site : Site) :
    siteCommand t op site = siteCommand s op site := by
  cases site <;> simp only [siteCommand, payload, hc, hl, hw]

/-- A command with a data phase has at it what it had at its frame. -/
theorem PointInv.data {j : Instr} (h : PointInv s op (.command site .frame)) (hj : siteCommand s op site = some j)
    (hd : (dataCall j).isSome) : PointInv s op (.command site .data) := by
  have hs := hasData_of_dataCall hj hd
  cases site with
  | initWren | deinitWrdi | subWren | protWren | protWrite => cases hs
  | bare k =>
    obtain ⟨h1, h2, h3, h4⟩ := h
    exact ⟨h1, h2, h3, h4, hs⟩
  | _ => exact h

/-- A call that answers `Ok` did not fail (R135). -/
theorem Device.interact_ok {k : Nat} {call : Call} {l : List Byte} (h : (d.interact c k x call).1 = .ok l) :
    x.reply ≠ .error := by
  intro hr
  cases call <;> simp [Device.interact, hr] at h

/-- After a request's answer the block is as sound as before it. -/
theorem Engaged.advance_pointInv {call : Call} (h : Engaged i s op p) (hp : s.phase = .busy op p) (hop : op ≠ .command)
    (hc : pointCall s op p = some call) (ha : advance (s.perform call) op p (s.answer call) = some t)
    (hq : t.phase = .busy op q) : PointInv t op q ∧ Running t op := by
  obtain ⟨h1, h2, -, h4, h5⟩ := h.running hop
  have hb : BlockInv (s.perform call) := by
    refine ⟨h1, ?_, by simp [State.perform, h4]⟩
    simp only [PhaseInv, State.perform, State.spend, hp]
    exact ⟨h2, h.atPoint.congr rfl rfl rfl, fun e => absurd e hop, fun _ => h4, h5⟩
  obtain ⟨t', ht', hbt⟩ := advance_inv hb hp (by rw [← hc]; cases p <;> rfl) rfl
    (Device.interact_answer s.cfg s.drawn s.draw s.dev call)
  obtain rfl : t = t' := Option.some.inj (ha ▸ ht')
  have hph := hbt.phase
  simp only [PhaseInv, hq] at hph
  obtain ⟨hf, hpi, -, hr, hini⟩ := hph
  exact ⟨hpi, hbt.legal, hf, hop, hr hop, hini⟩

/-- What one interaction at a point can do: the call of the point stays unanswered, or its answer leads on. -/
theorem interact_at (hp : s.phase = .busy op p) (ht : s.interact = some t) :
    ∃ call, pointCall s op p = some call
      ∧ ((s.draw.reply = .unanswered ∧ t = s.hang)
        ∨ (s.draw.reply ≠ .unanswered ∧ advance (s.perform call) op p (s.answer call) = some t)) := by
  obtain ⟨op', p', call, hp', h⟩ := State.interact_cases ht
  obtain ⟨rfl, rfl⟩ : op' = op ∧ p' = p := by simpa using hp'.symm.trans hp
  exact ⟨call, h⟩

/-- At a point, the run's conditions for it are all there are. -/
theorem Engaged.engages (h : Engaged i s op p) (hp : s.phase = .busy op p) : Engages i s := by
  intro op' p' hp'
  obtain ⟨rfl, rfl⟩ : op = op' ∧ p = p' := by simpa using hp.symm.trans hp'
  exact h

/-- An unanswered call leaves the run at its point. -/
theorem Engaged.hang (h : Engaged i s op p) : Engaged i s.hang op p :=
  ⟨h.legal, h.operation, h.atPoint.congr rfl rfl rfl, fun hop => (h.running hop).congr rfl rfl rfl rfl, h.bare, h.latched,
    fun site j hp hj =>
      (h.framed site j hp ((siteCommand_congr (t := s.hang) rfl rfl rfl _ _).symm.trans hj)).passTime _⟩

/-- A frame answered, the device has heard it, and the run is at the data phase. -/
theorem Engaged.data {call : Call} {j : Instr} {l : List Byte} (h : Engaged i s op (.command site .frame))
    (hc : pointCall s op (.command site .frame) = some call) (ha : s.answer call = .ok l)
    (hj : siteCommand (s.perform call) op site = some j) (hd : (dataCall j).isSome) :
    Engaged i ((s.perform call).goto op (.command site .data)) op (.command site .data) := by
  have hj : siteCommand s op site = some j := (siteCommand_congr rfl rfl rfl _ _).symm.trans hj
  obtain ⟨j', hj', hs⟩ := h.atPoint.sendable h.legal
  obtain rfl : j = j' := Option.some.inj (hj.symm.trans hj')
  have hc : frameCall s.cfg j = some call := by simpa [pointCall, hj] using hc
  refine ⟨h.legal, h.operation, (h.atPoint.data hj hd).congr rfl rfl rfl,
    fun hop => (h.running hop).congr rfl rfl rfl rfl, fun j₁ stage hb => ?_, h.latched, fun site₁ j₁ hs₁ hj₁ => ?_⟩
  · cases hb
    exact h.bare j₁ .frame rfl
  · cases hs₁
    obtain rfl : j = j₁ :=
      Option.some.inj (hj.symm.trans ((siteCommand_congr (s := s) rfl rfl rfl _ _).symm.trans hj₁))
    exact (Device.interact_frame hs.command hd hc).2 (Device.interact_ok ha)

/-- Any other answer that does not end the run leads it to a frame, a clock read or `TransportInit`. -/
theorem Engaged.on {call : Call} (h : Engaged i s op p) (hp : s.phase = .busy op p) (hc : pointCall s op p = some call)
    (ha : advance (s.perform call) op p (s.answer call) = some t) (hq : t.phase = .busy op q)
    (hl : t.latch = (s.perform call).latch) (hf : Follows p (s.answer call) q) : Engaged i t op q := by
  by_cases hop : op = .command
  · subst hop
    obtain ⟨j, stage, rfl⟩ := bare_of_belongs h.atPoint.belongs
    obtain ⟨stage', hst⟩ | hidle := (advance_bareFrame ha).phase
    · obtain rfl : Point.command (.bare j) stage' = q := by simpa using hst.symm.trans hq
      cases stage' <;> exact hf.elim
    · cases hidle.symm.trans hq
  · obtain ⟨hpi, hrun⟩ := h.advance_pointInv hp hop hc ha hq
    refine ⟨hrun.legal, h.operation, hpi, fun _ => hrun, fun j stage hb => ?_, hl ▸ h.latched, fun site j hs _ => ?_⟩
    · subst hb
      cases stage <;> exact hf.elim
    · subst hs
      cases site <;> exact hf.elim

/-- Every interaction of a run leads to another, or to its end. -/
theorem Engaged.interact (h : Engaged i s op p) (hp : s.phase = .busy op p) (ht : s.interact = some t) : Engages i t := by
  obtain ⟨call, hc, ⟨-, rfl⟩ | ⟨-, ha⟩⟩ := interact_at hp ht
  · exact h.hang.engages hp
  · cases advance_leads h.atPoint.belongs ha with
    | ends hend => exact hend.engages i
    | data hframe hans hj hd hgo =>
      subst hframe hgo
      exact (h.data hc hans hj hd).engages rfl
    | on hq hl _ hf => exact (h.on hp hc ha hq hl hf).engages hq

/-- What an interaction does at the device: as time leaves it, but for the line; or, in the last call of a command, the device
obeys it. -/
inductive Touches (s t : State) (op : Op) (p : Point) : Prop where
  | line (h : SameCell (s.dev.passTime s.cfg s.draw) t.dev)
      (hn : s.draw.reply ≠ .unanswered → ∀ site stage j, p = .command site stage → siteCommand s op site = some j →
        stage = .frame ∧ (dataCall j).isSome)
  | obeys {site : Site} {stage : Stage} {j : Instr} (hp : p = .command site stage) (hj : siteCommand s op site = some j)
      (hr : s.draw.reply ≠ .unanswered) (hs : Sendable s.cfg j) (hd : stage = .frame → dataCall j = none)
      (h : Obeyed s.cfg s.draw j (s.dev.passTime s.cfg s.draw) t.dev)

theorem Device.interact_init_sameCell (c : Config) (k : Nat) (x : Draw) (d : Device) :
    SameCell (d.passTime c x) (d.interact c k x .transportInit).2 := by
  unfold Device.interact
  dsimp only
  split <;> exact {}

theorem Engaged.touches (h : Engaged i s op p) (hp : s.phase = .busy op p) (ht : s.interact = some t) :
    Touches s t op p := by
  obtain ⟨call, hc, ⟨hr, rfl⟩ | ⟨hr, ha⟩⟩ := interact_at hp ht
  · exact .line {} fun hn => absurd hr hn
  have hdev : t.dev = (s.dev.interact s.cfg s.drawn s.draw call).2 := (advance_same ha).dev
  cases p with
  | transportInit =>
    cases hc
    exact .line (by rw [hdev]; exact Device.interact_init_sameCell ..) fun _ _ _ _ h => by cases h
  | reference | sample =>
    cases hc
    exact .line (by rw [hdev]; exact {}) fun _ _ _ _ h => by cases h
  | command site stage =>
    obtain ⟨j, hj, hs⟩ := h.atPoint.sendable h.legal
    cases stage with
    | frame =>
      have hc : frameCall s.cfg j = some call := by simpa [pointCall, hj] using hc
      cases hd : dataCall j with
      | none => exact .obeys rfl hj hr hs (fun _ => hd) (by rw [hdev]; exact Device.interact_single hs hd hc)
      | some call' =>
        have hd : (dataCall j).isSome := by rw [hd]; rfl
        refine .line (by rw [hdev]; exact (Device.interact_frame hs.command hd hc).1) fun _ site' stage' j' hp' hj' => ?_
        cases hp'
        cases hj.symm.trans hj'
        exact ⟨rfl, hd⟩
    | data =>
      have hc : dataCall j = some call := by simpa [pointCall, hj] using hc
      exact .obeys rfl hj hr hs nofun (by rw [hdev]; exact Device.interact_data hs (h.framed site j rfl hj) hc)

/-! ### Where a run begins -/

/-- The run of an accepted instruction begins at `u`, the device untouched (R107). -/
structure Begins (i : Instr) (s u : State) : Prop where
  engaged : Engages i u
  cfg : u.cfg = s.cfg := by rfl
  dev : u.dev = s.dev := by rfl

/-- An instruction is answered with the device untouched, or runs. -/
def AnsweredOrRun (i : Instr) (s t : State) : Prop :=
  (t.dev = s.dev ∧ t.cfg = s.cfg) ∨ ∃ u, Begins i s u ∧ t = u.runOperation

theorem answeredOrRun_respond (i : Instr) (e : RespCode) (hc : u.cfg = s.cfg) (hd : u.dev = s.dev) :
    AnsweredOrRun i s (u.respond e) :=
  .inl ⟨hd, hc⟩

/-- A request launched at a frame, or at `TransportInit`, runs. -/
theorem Launched.engages (h : Launched u (operationOf i)) (hl : LatchedFor u.latch i)
    (hp : ∀ op site, u.phase ≠ .busy op (.command site .data)) : Engages i u := by
  intro op p hop
  obtain ⟨p', hp', hpi⟩ := h.atPoint
  obtain ⟨rfl, rfl⟩ : operationOf i = op ∧ p' = p := by simpa using hp'.symm.trans hop
  refine ⟨h.legal, rfl, hpi, fun _ => h.toRunning, fun j stage hb => ?_, hl, fun site j hs => ?_⟩
  · subst hb
    have hc : operationOf i = .command := by cases stage <;> exact hpi.1
    exact absurd hc h.request
  · exact absurd (hs ▸ hop) (hp _ site)

theorem Launched.answeredOrRun (h : Launched u (operationOf i)) (hl : LatchedFor u.latch i)
    (hp : ∀ op site, u.phase ≠ .busy op (.command site .data)) (hc : u.cfg = s.cfg) (hd : u.dev = s.dev) :
    AnsweredOrRun i s u.runOperation :=
  .inr ⟨u, ⟨h.engages hl hp, hc, hd⟩, rfl⟩

theorem beginRequest_answeredOrRun {body : State → State} (h : beginRequest op s body = .next t)
    (hb : configLegal s.cfg = true → s.faulted = false → AnsweredOrRun i s (body (s.accept op))) :
    AnsweredOrRun i s t := by
  obtain ⟨hl, -, rfl⟩ := beginRequest_next h
  split
  · exact answeredOrRun_respond i .errInternal rfl rfl
  · exact hb hl (Bool.eq_false_iff.2 ‹_›)

/-- The accepted `WRITE`, its operands latched (R107, R115). -/
def writeAccepted (s : State) (addr size : Word) (data : List Byte) : State :=
  { s.accept .write with
    latch := { s.latch with op := opBits .write, addr := some addr, size := some size, data := some data } }

theorem checkAccess_ne_ok : checkAccess s addr size ≠ some .ok := by
  unfold checkAccess
  split <;> [skip; split <;> [skip; split]] <;> simp

/-- A `WRITE` that passes its checks (R109) on a healthy block. -/
structure WritePasses (s : State) (addr size : Word) (data : List Byte) : Prop where
  legal : configLegal s.cfg = true
  healthy : s.faulted = false
  initialized : s.initialized = true
  size_ne : size ≠ 0
  inRange : outOfRange s.cfg addr size = false
  length : data.length = size.toNat

/-- What a `WRITE` answers: an error with no interaction, or what its run comes to (R109, R115). -/
theorem exec_write_next {data : List Byte} (h : exec (.write addr size data) s = .next t) :
    (∃ (u : State) (e : RespCode), e ≠ .ok ∧ u.cfg = s.cfg ∧ u.dev = s.dev ∧ t = u.respond e)
      ∨ (WritePasses s addr size data ∧ t = ((writeAccepted s addr size data).writeRange .write addr size).runOperation) := by
  dsimp only [exec] at h
  unfold execWrite at h
  split at h
  · rename_i hw
    obtain ⟨hl, -, rfl⟩ := beginRequest_next h
    split
    · exact .inl ⟨s.accept .write, .errInternal, by decide, rfl, rfl, rfl⟩
    · rename_i hf
      dsimp only
      split
      · rename_i e he
        exact .inl ⟨writeAccepted s addr size data, e, fun h => checkAccess_ne_ok (h ▸ he), rfl, rfl, rfl⟩
      · rename_i hc
        obtain ⟨hini, hz, ho⟩ := checkAccess_none.1 hc
        exact .inr ⟨⟨hl, Bool.eq_false_iff.2 hf, hini, hz, ho, of_decide_eq_true hw⟩, rfl⟩
  · cases h

/-- The first point of a `WRITE`'s or `ERASE`'s run is a frame. -/
theorem writeRange_not_data (s : State) (op op' : Op) (site : Site) :
    (s.writeRange op addr size).phase ≠ .busy op' (.command site .data) := by
  simp [State.writeRange, State.monitorStart]

theorem WritePasses.engages {data : List Byte} (h : WritePasses s addr size data) :
    Engages (.write addr size data) ((writeAccepted s addr size data).writeRange .write addr size) :=
  (writeRange_launched (.inl rfl) (Accepted.running (s := s) (u := writeAccepted s addr size data) {} h.legal h.healthy nofun rfl fun _ => h.initialized) rfl rfl
    h.size_ne h.inRange fun _ => ⟨data, rfl, h.length⟩).engages ⟨rfl, rfl, rfl⟩ (writeRange_not_data _ _)

/-- Every request is answered with the device untouched, or runs. -/
theorem exec_request_answeredOrRun (hi : isRequest i = true) (h : exec i s = .next t) : AnsweredOrRun i s t := by
  cases i with
  | init =>
    unfold exec execInit at h
    exact beginRequest_answeredOrRun h fun hl hf =>
      Launched.answeredOrRun ⟨Accepted.running {} hl hf nofun rfl nofun, _, rfl, rfl⟩ trivial (by simp) rfl rfl
  | deinit =>
    unfold exec execDeinit at h
    exact beginRequest_answeredOrRun h fun hl hf =>
      Launched.answeredOrRun ⟨Accepted.running {} hl hf nofun rfl nofun, _, rfl, rfl⟩ trivial (by simp) rfl rfl
  | isInit =>
    unfold exec execIsInit at h
    exact beginRequest_answeredOrRun h fun _ _ => .inl ⟨rfl, rfl⟩
  | reservedOp7 =>
    unfold exec execReservedOp7 at h
    exact beginRequest_answeredOrRun h fun _ _ => answeredOrRun_respond _ _ rfl rfl
  | write addr size data =>
    obtain ⟨u, e, -, hc, hd, rfl⟩ | ⟨hp, rfl⟩ := exec_write_next h
    · exact answeredOrRun_respond _ e hc hd
    · exact .inr ⟨_, ⟨hp.engages, rfl, rfl⟩, rfl⟩
  | read addr size =>
    unfold exec execRead at h
    refine beginRequest_answeredOrRun h fun hl hf => ?_
    dsimp only
    split
    · exact answeredOrRun_respond _ _ rfl rfl
    · rename_i hc
      obtain ⟨hini, hz, ho⟩ := checkAccess_none.1 hc
      exact Launched.answeredOrRun ⟨Accepted.running {} hl hf nofun rfl (fun _ => hini), _, rfl, rfl, addr, size, rfl,
        rfl, range_le_capacity hl hz ho⟩ trivial (by simp) rfl rfl
  | erase addr size =>
    unfold exec execErase at h
    refine beginRequest_answeredOrRun h fun hl hf => ?_
    dsimp only
    split
    · exact answeredOrRun_respond _ _ rfl rfl
    · rename_i hc
      obtain ⟨hini, hz, -, ho⟩ := checkErase_none.1 hc
      exact Launched.answeredOrRun (writeRange_launched (.inr rfl) (Accepted.running {} hl hf nofun rfl fun _ => hini)
        rfl rfl hz ho nofun) ⟨rfl, rfl⟩ (writeRange_not_data _ _) rfl rfl
  | setProt level =>
    unfold exec execSetProt at h
    refine beginRequest_answeredOrRun h fun hl hf => ?_
    dsimp only
    split
    · rename_i hini
      exact Launched.answeredOrRun ⟨Accepted.running {} hl hf nofun rfl (fun _ => hini), _, rfl, rfl, _, rfl⟩ trivial
        (by simp) rfl rfl
    · exact answeredOrRun_respond _ _ rfl rfl
  | _ => cases hi

/-- A command latches nothing (R107). -/
theorem command_latchedFor (hi : isRequest i = false) (l : Latch) : operationOf i = .command ∧ LatchedFor l i := by
  cases i with
  | readA1 | readA2 | readA3 | writeA1 | writeA2 | writeA3 | wren | wrdi | rdsr | wrsr => exact ⟨rfl, trivial⟩
  | _ => cases hi

theorem exec_answeredOrRun (h : exec i s = .next t) : AnsweredOrRun i s t := by
  cases hi : isRequest i with
  | true => exact exec_request_answeredOrRun hi h
  | false =>
    obtain ⟨hl, hw, hf, -, rfl⟩ := beginCommand_next (exec_command hi s ▸ h)
    split
    · exact answeredOrRun_respond i .errInternal rfl rfl
    · refine .inr ⟨bareStart s i, ⟨fun op p hp => ?_, rfl, rfl⟩, rfl⟩
      obtain ⟨rfl, rfl⟩ : Op.command = op ∧ Point.command (.bare i) .frame = p := by simpa [bareStart] using hp
      obtain ⟨hop, hlat⟩ := command_latchedFor hi (bareStart s i).latch
      refine ⟨hl, hop.symm, ⟨rfl, hi, hw, hf⟩, fun h => absurd rfl h, fun j stage hb => ?_, hlat, fun _ _ h => by cases h⟩
      cases hb
      rfl

/-- What every interaction of an instruction's run keeps, the instruction keeps. -/
theorem exec_induct {P : State → Prop} (h : exec i s = .next t) (h0 : ∀ u, u.cfg = s.cfg → u.dev = s.dev → P u)
    (hstep : ∀ u v op p, u.phase = .busy op p → Engaged i u op p → P u → u.interact = some v → P v) : P t := by
  obtain ⟨hd, hc⟩ | ⟨u, hu, rfl⟩ := exec_answeredOrRun h
  · exact h0 t hc hd
  · refine (State.run_induct (P := fun v => Engages i v ∧ P v) ?_ operationFuel u
      ⟨hu.engaged, h0 u hu.cfg hu.dev⟩).2
    rintro v w ⟨hv, hpv⟩ hw
    obtain ⟨op, p, -, hp, -⟩ := State.interact_cases hw
    exact ⟨(hv op p hp).interact hp hw, hstep v w op p hp (hv op p hp) hpv hw⟩

/-! ### The array -/

/-- A command obeyed leaves the array, and makes pending nothing but what it stores to (R40, R54, R55). -/
theorem Obeyed.array {a : Nat} (h : Obeyed c x i d e) (ha : ¬ storesTo c i a) (hp : ¬ Pending d a) :
    e.byteAt a = d.byteAt a ∧ ¬ Pending e a := by
  obtain ⟨-, hs⟩ | ⟨keep, -, hs⟩ := h
  · exact ⟨hs.byteAt a, hs.pending.not.2 hp⟩
  · obtain ⟨hm, hc⟩ := Device.obey_spec (c := c) (d := d) (x := x) keep i
    refine ⟨(hs.byteAt a).trans (by unfold Device.byteAt; rw [hm]), fun hpe => ?_⟩
    obtain ⟨y, hy, v, hv⟩ := hs.pending.1 hpe
    obtain hc | ⟨z, hz, hw⟩ := hc
    · exact hp ⟨y, hc ▸ hy, v, hv⟩
    · obtain rfl : z = y := Option.some.inj (hz.symm.trans hy)
      obtain ⟨-, hst⟩ | hpd := hw (a, v) hv
      · exact ha hst
      · exact hp hpd

/-- The command of a point stores only where the instruction it runs for does (R91, R115, R117). -/
theorem Engaged.storesTo {j : Instr} {a : Nat} (h : Engaged i s op (.command site stage))
    (hj : siteCommand s op site = some j) (hs : storesTo s.cfg j a) : storesTo s.cfg i a := by
  cases site with
  | bare j' =>
    cases hj
    exact h.bare j stage rfl ▸ hs
  | subWrite =>
    obtain ⟨hop, hwi⟩ : (op = .write ∨ op = .erase) ∧ WriteInv s op := by cases stage <;> exact h.atPoint
    obtain ⟨addr, size, b, o, n, l, ht⟩ := hwi.subTransfer h.legal hop
    obtain rfl : _ = j := Option.some.inj (ht.command.symm.trans hj)
    have hpos := ht.pos
    have hlen := ht.length
    have hst := ht.start
    have hfit := ht.fits
    have harr := ht.inArray
    have hpg := ht.inPage
    obtain ⟨k, hk, rfl⟩ := (sendWrite_spec h.legal ht.address_lt (by omega)).2.2 a hs
    rw [pageAddress_eq (by omega) (by omega)]
    have hlat := h.latched
    have ho := h.operation
    cases i with
    | write addr' size' data =>
      obtain ⟨ha, hz, -⟩ := hlat
      obtain rfl : addr = addr' := Option.some.inj (ht.latchAddr.symm.trans ha)
      obtain rfl : size = size' := Option.some.inj (ht.latchSize.symm.trans hz)
      simp only [Machine.storesTo]
      omega
    | erase addr' size' =>
      obtain ⟨ha, hz⟩ := hlat
      obtain rfl : addr = addr' := Option.some.inj (ht.latchAddr.symm.trans ha)
      obtain rfl : size = size' := Option.some.inj (ht.latchSize.symm.trans hz)
      simp only [Machine.storesTo]
      omega
    | _ => subst ho; obtain hop | hop := hop <;> cases hop
  | readData =>
    simp only [siteCommand, bind, Option.bind_eq_some_iff] at hj
    obtain ⟨b, -, m, -, hj⟩ := hj
    cases hj
    unfold sendRead at hs
    split at hs <;> [skip; split at hs] <;> exact hs.elim
  | protWrite =>
    simp only [siteCommand, bind, Option.bind_eq_some_iff] at hj
    obtain ⟨b, -, m, -, hj⟩ := hj
    cases hj
    exact hs.elim
  | _ => cases hj; exact hs.elim

/-- One interaction of a run changes no byte, and makes none pending, but those the instruction stores to. -/
theorem Engaged.interact_array {a : Nat} (h : Engaged i s op p) (hp : s.phase = .busy op p) (ht : s.interact = some t)
    (ha : ¬ Machine.storesTo s.cfg i a) (hpd : ¬ Pending s.dev a) :
    t.dev.byteAt a = s.dev.byteAt a ∧ ¬ Pending t.dev a := by
  have hb := Device.passTime_byteAt (c := s.cfg) (x := s.draw) hpd
  have hpt : ¬ Pending (s.dev.passTime s.cfg s.draw) a := fun h => hpd (Device.passTime_pending h)
  cases h.touches hp ht with
  | line hs => exact ⟨(hs.byteAt a).trans hb, hs.pending.not.2 hpt⟩
  | obeys hcm hj _ _ _ ho =>
    subst hcm
    exact (ho.array (fun hst => ha (h.storesTo hj hst)) hpt).imp_left (·.trans hb)

/-- Settles O52: no interaction of the instruction's run touches the byte. -/
theorem arrayChangesOnlyWhereStored : Obligations.ArrayChangesOnlyWhereStored := by
  intro i s t a h ha hp
  refine (exec_induct (P := fun u => u.cfg = s.cfg ∧ u.dev.byteAt a = s.dev.byteAt a ∧ ¬ Pending u.dev a) h
    (fun u hc hd => ⟨hc, by rw [hd], hd ▸ hp⟩) ?_).2
  rintro u v op p hph hu ⟨hc, hb, hpu⟩ hv
  obtain ⟨hbv, hpv⟩ := hu.interact_array hph hv (hc ▸ ha) hpu
  exact ⟨(interactionIsOneCall u v hv).1.trans hc, hbv.trans hb, hpv⟩

/-! ### The protection bits -/

/-- No status write is pending (R51, R57). -/
def NoStatusPending (d : Device) : Prop := ∀ y, d.cycle = some y → y.status = none

theorem SameCell.noStatusPending (h : SameCell d e) (hn : NoStatusPending d) : NoStatusPending e :=
  fun y hy => hn y (h.cycle.symm.trans hy)

/-- Time moves BP and WPEN by ending a status write alone (R54, R57). -/
theorem Device.passTime_protection (x : Draw) (hn : NoStatusPending d) :
    (d.passTime c x).bp = d.bp ∧ (d.passTime c x).wpen = d.wpen ∧ NoStatusPending (d.passTime c x) := by
  have hp : NoStatusPending (d.passTime c x) := fun y hy => by
    obtain hc | hc := Device.passTime_cycle (c := c) (d := d) (x := x) <;> rw [hc] at hy
    · exact hn y hy
    · cases hy
  obtain he | he := Device.passTime_cases (c := c) (d := d) (x := x)
  · exact ⟨by rw [he], by rw [he], hp⟩
  · cases hc : d.cycle with
    | none => simp [he, Device.endCycle, hc, NoStatusPending]
    | some y => simp [he, Device.endCycle, hc, hn y hc, NoStatusPending]

/-- No command moves BP or WPEN, and but for WRSR none makes a status write pending (R54, R57). -/
theorem Device.obey_protection (keep : Nat → Bool) (i : Instr) :
    (d.obey c x keep i).bp = d.bp ∧ (d.obey c x keep i).wpen = d.wpen
      ∧ ((∀ v, i ≠ .wrsr v) → NoStatusPending d → NoStatusPending (d.obey c x keep i)) := by
  have latch (v : Bool) : (d.setLatch x v).bp = d.bp ∧ (d.setLatch x v).wpen = d.wpen
      ∧ ((∀ v, i ≠ .wrsr v) → NoStatusPending d → NoStatusPending (d.setLatch x v)) := by
    unfold Device.setLatch
    split <;> exact ⟨rfl, rfl, fun _ h => h⟩
  have write (a : Nat) (p : List Byte) : (d.startWrite c a p keep).bp = d.bp ∧ (d.startWrite c a p keep).wpen = d.wpen
      ∧ ((∀ v, i ≠ .wrsr v) → NoStatusPending d → NoStatusPending (d.startWrite c a p keep)) := by
    unfold Device.startWrite
    split
    · exact ⟨rfl, rfl, fun _ _ y hy => by cases hy; rfl⟩
    · exact ⟨rfl, rfl, fun _ h => h⟩
  cases i with
  | wren => exact latch true
  | wrdi => exact latch false
  | writeA1 | writeA2 | writeA3 => exact write _ _
  | wrsr v =>
    refine ⟨?_, ?_, fun h => absurd rfl (h v)⟩ <;>
      obtain ⟨-, h⟩ | ⟨-, h⟩ := Device.startStatusWrite_spec (d := d) (x := x) v <;> rw [Device.obey, h]
  | _ => exact ⟨rfl, rfl, fun _ h => h⟩

/-- A WRSR is the last command of its operation (R118, log 17). -/
theorem advance_wrsr_quiet {v : Byte} {a : Answer} (hj : siteCommand s op site = some (.wrsr v))
    (h : advance s op (.command site stage) a = some t) : Quiet t := by
  have hsite : site = .protWrite ∨ site = .bare (.wrsr v) := by
    cases site with
    | protWrite => exact .inl rfl
    | bare j => cases hj; exact .inr rfl
    | subWrite | readData =>
      simp only [siteCommand, sendWrite, sendRead, bind, Option.bind_eq_some_iff, pure, Option.some.injEq] at hj
      obtain ⟨b, -, m, -, hj⟩ := hj
      split at hj <;> [skip; split at hj] <;> cases hj
    | _ => cases hj
  have done {l : List Byte} (h : siteDone s op l site = some t) : Quiet t := by
    obtain rfl | rfl := hsite <;> cases h
    · exact respondWith_quiet _ _
    · exact .inl rfl
  cases a with
  | time y => cases stage <;> cases h
  | error =>
    have h : some (siteFailed s site) = some t := by cases stage <;> exact h
    cases h
    obtain rfl | rfl := hsite
    · exact respondWith_quiet _ _
    · exact .inl rfl
  | ok l => cases stage <;> simp [advance, hj, dataCall, State.takeStatus] at h <;> exact done h

/-- One interaction of a run with no status write pending keeps BP and WPEN; a status write can be pending after its last
alone. -/
theorem Engaged.interact_protection (h : Engaged i s op p) (hp : s.phase = .busy op p) (ht : s.interact = some t)
    (hn : NoStatusPending s.dev) :
    t.dev.bp = s.dev.bp ∧ t.dev.wpen = s.dev.wpen ∧ (¬ Quiet t → NoStatusPending t.dev) := by
  obtain ⟨hb, hw, hnp⟩ := Device.passTime_protection (c := s.cfg) s.draw hn
  have line (hs : SameCell (s.dev.passTime s.cfg s.draw) t.dev) :
      t.dev.bp = s.dev.bp ∧ t.dev.wpen = s.dev.wpen ∧ (¬ Quiet t → NoStatusPending t.dev) :=
    ⟨hs.bp.trans hb, hs.wpen.trans hw, fun _ => hs.noStatusPending hnp⟩
  cases h.touches hp ht with
  | line hs => exact line hs
  | @obeys site stage j hcm hj hr _ _ ho =>
    subst hcm
    obtain ⟨-, hs⟩ | ⟨keep, -, hs⟩ := ho
    · exact line hs
    · obtain ⟨hob, how, hon⟩ := Device.obey_protection (c := s.cfg) (d := s.dev.passTime s.cfg s.draw) (x := s.draw) keep j
      refine ⟨hs.bp.trans (hob.trans hb), hs.wpen.trans (how.trans hw), fun hq => hs.noStatusPending (hon ?_ hnp)⟩
      rintro v rfl
      obtain ⟨call, -, ⟨hu, -⟩ | ⟨-, ha⟩⟩ := interact_at hp ht
      · exact hr hu
      · exact hq (advance_wrsr_quiet ((siteCommand_congr (s := s) (t := s.perform call) rfl rfl rfl _ _).trans hj) ha)

/-- Settles O53: a WRSR is the last command of a run, so no interaction after it can end its cycle. -/
theorem protectionBitsChangeOnlyByACycle : Obligations.ProtectionBitsChangeOnlyByACycle := by
  intro i s t h hn
  obtain ⟨hb, hw, -⟩ := exec_induct
    (P := fun u => u.dev.bp = s.dev.bp ∧ u.dev.wpen = s.dev.wpen ∧ (¬ Quiet u → NoStatusPending u.dev)) h
    (fun u _ hd => ⟨by rw [hd], by rw [hd], fun _ => hd ▸ hn⟩) (by
      rintro u v op p hph hu ⟨hb, hw, hnu⟩ hv
      obtain ⟨hbv, hwv, hnv⟩ := hu.interact_protection hph hv (hnu fun hq => hq.not_busy op p hph)
      exact ⟨hbv.trans hb, hwv.trans hw, hnv⟩)
  exact ⟨hb, hw⟩

end Sys2Proof.Machine
end

section
/-! Proofs about the device (20_memory.md), fifth part: the round trip (O57). A `WRITE`'s run keeps, at every interaction, that
what it has sent stands in the array once the running cycle has ended. -/

namespace Sys2Proof.Machine

variable {c : Config} {d e : Device} {x y : Draw} {i j : Instr} {s t u : State} {op : Op} {p q : Point} {site : Site}
  {stage : Stage} {addr size : Word} {data : List Byte} {k n : Nat}

/-! ### What is stored once the cycle has ended -/

theorem Device.endCycle_of_none (h : d.cycle = none) : d.endCycle c = d := by
  unfold Device.endCycle
  rw [h]

/-- With the WP pin left alone, time can end the cycle, and no more (R54). -/
theorem Device.passTime_of_still (hx : x.wpPin = none) :
    d.passTime c x = if x.cycleEnds then d.endCycle c else d := by
  unfold Device.passTime
  rw [hx]
  rfl

theorem Device.passTime_of_none (hx : x.wpPin = none) (h : d.cycle = none) : d.passTime c x = d := by
  rw [Device.passTime_of_still hx, Device.endCycle_of_none h, ite_self]

theorem SameCell.writeProtected (h : SameCell d e) (a : Nat) : e.writeProtected c a = d.writeProtected c a := by
  unfold Device.writeProtected
  rw [h.bp, h.wp]

theorem SameCell.endCycle (h : SameCell d e) : SameCell (d.endCycle c) (e.endCycle c) := by
  unfold Device.endCycle
  rw [h.cycle]
  cases d.cycle with
  | none => exact h
  | some z =>
    have hc : e.commitByte c = d.commitByte c := by
      funext m w
      unfold Device.commitByte
      rw [h.writeProtected]
    exact ⟨by simp only [hc, h.mem], rfl, rfl, by simp only [h.bp], by simp only [h.wpen], h.wp⟩

/-- Once its cycle has ended, the device holds the first `o` bytes of `data` from `addr` on, and protects no byte of the
range. -/
structure Stored (c : Config) (d : Device) (addr : Nat) (data : List Byte) (o : Nat) : Prop where
  sent : ∀ j v, j < o → data[j]? = some v → (d.endCycle c).byteAt (addr + j) = v
  writable : ∀ a, addr ≤ a → a < addr + data.length → (d.endCycle c).writeProtected c a = false

theorem Stored.congr {a o : Nat} (h : Stored c d a data o)
    (hb : ∀ b, (e.endCycle c).byteAt b = (d.endCycle c).byteAt b)
    (hp : ∀ b, (e.endCycle c).writeProtected c b = (d.endCycle c).writeProtected c b) : Stored c e a data o :=
  ⟨fun j v hj hv => (hb _).trans (h.sent j v hj hv), fun b h1 h2 => (hp b).trans (h.writable b h1 h2)⟩

theorem Stored.line {a o : Nat} (h : Stored c d a data o) (hs : SameCell d e) : Stored c e a data o :=
  h.congr hs.endCycle.byteAt hs.endCycle.writeProtected

theorem Stored.passTime {a o : Nat} (h : Stored c d a data o) (hx : x.wpPin = none) :
    Stored c (d.passTime c x) a data o := by
  rw [Device.passTime_of_still hx]
  split
  · refine h.congr (fun _ => ?_) (fun _ => ?_) <;> rw [Device.endCycle_of_none (Device.endCycle_cycle (d := d))]
  · exact h

theorem Stored.setLatch {a o : Nat} (h : Stored c d a data o) (v : Bool) : Stored c (d.setLatch x v) a data o := by
  unfold Device.setLatch
  split
  · exact h
  · refine h.congr (fun _ => ?_) (fun _ => ?_) <;> unfold Device.endCycle <;> cases d.cycle <;> rfl

/-- An accepted sub-transfer adds its bytes to what is stored (R54, R55, R91). -/
theorem Stored.startWrite {a o m : Nat} {b : List Byte} (h : Stored c d a data o) (hl : configLegal c = true)
    (hc : d.cycle = none) (hw : d.wel = true) (hb : b = (data.drop o).take m) (hm : b.length = m)
    (hfit : o + m ≤ data.length) (hpage : (a + o) % c.pageSize + m ≤ c.pageSize) (hcap : a + data.length ≤ capacity c) :
    Stored c (d.startWrite c (a + o) b fun _ => true) a data (o + m) := by
  have hd := Device.endCycle_of_none (c := c) hc
  have ⟨hsent, hwritable⟩ := h
  rw [hd] at hsent hwritable
  obtain ⟨hin, hout, -⟩ := acceptedWriteIsCommitted c d (a + o) b hl hc hw (by omega) (by omega)
  refine ⟨fun j v hj hv => ?_, fun y h1 h2 => ?_⟩
  · by_cases hjo : j < o
    · rw [hout _ (.inl (by omega))]
      exact hsent j v hjo hv
    · obtain ⟨r, rfl⟩ := Nat.exists_eq_add_of_le (Nat.le_of_not_lt hjo)
      rw [← Nat.add_assoc]
      refine hin r v ?_ (hwritable _ (by omega) (by omega))
      rw [hb, List.getElem?_take_of_lt (by omega), List.getElem?_drop]
      exact hv
  · rw [Device.startWrite_endCycle hc hw]
    exact hwritable y h1 h2

/-! ### What the device answers -/

/-- As many bytes as asked for are returned as they are (R135). -/
theorem fit_of_length {l : List Byte} (h : l.length = n) : fit k n l = l := by
  refine List.ext_getElem (by simp [fit, h]) fun r h1 h2 => ?_
  simp [fit, h2]

/-- An answered `Receive` of a command the device has heard the frame of, the device answering for itself (R53, R56, log 6). -/
theorem Device.interact_receive_own (hs : Sendable c i) (hf : Framed c i d) (hd : dataCall i = some (.receive n .stop))
    (hr : x.reply ≠ .error) (hx : x.rx = none) :
    ∃ e, SameCell (d.passTime c x) e ∧ e.cs = true ∧ decodeWire c ⟨e.heard, n⟩ = .ok i
      ∧ (d.interact c k x (.receive n .stop)).1 = .ok (fit k n (e.output c k .stop n)) := by
  refine ⟨{ d.passTime c x with reserved := x.reserved }, {}, ?_⟩
  cases transaction_of_command c hs.command with
  | single f _ hn => cases hd.symm.trans hn
  | send f l _ hn => cases hd.symm.trans hn
  | receive f m hfr hn he =>
    cases hd.symm.trans hn
    obtain ⟨h1, h2⟩ := hf.passTime x f .start hfr
    refine ⟨h1, by rw [h2]; exact hs.decode he, ?_⟩
    unfold Device.interact
    dsimp only
    split
    · exact absurd ‹_› hr
    · rw [hx]
      rfl

/-- The device's own status byte shows WIP (R53). -/
theorem output_rdsr (hcs : e.cs = true) (hd : decodeWire c ⟨e.heard, 1⟩ = .ok .rdsr) :
    ∃ b, fit k 1 (e.output c k .stop 1) = [b] ∧ Machine.wip b = e.wip := by
  refine ⟨e.status, ?_, (statusByteShowsTheFields e).1⟩
  rw [fit_of_length] <;> simp [Device.output, assertBefore, hcs, hd]

/-! ### A `WRITE`'s run -/

/-- What the device must be for a sub-transfer to be accepted, from the monitor's end on (R52, R54, R115). -/
def ReadyFor (d : Device) : Point → Prop
  | .command .subWren _ => d.cycle = none
  | .command .subWrite _ => d.cycle = none ∧ d.wel = true
  | _ => True

/-- What a `WRITE` has stored: before its next interaction as much as it has sent, after `OK` all of it. -/
structure WriteProgress (addr : Word) (data : List Byte) (s : State) : Prop where
  running : ∀ op p, s.phase = .busy op p →
    ReadyFor s.dev p ∧ ∃ o, s.work.offset = some o ∧ Stored s.cfg s.dev addr.toNat data o.toNat
  ended : Quiet s → s.resp.code = some .ok → s.faulted = false ∧ Stored s.cfg s.dev addr.toNat data data.length

theorem WriteProgress.of_busy (hp : t.phase = .busy op p) (hr : ReadyFor t.dev p) {o : Word}
    (ho : t.work.offset = some o) (hs : Stored t.cfg t.dev addr.toNat data o.toNat) : WriteProgress addr data t := by
  refine ⟨fun op' p' hp' => ?_, fun hq => absurd hp (hq.not_busy op p)⟩
  obtain ⟨rfl, rfl⟩ : op = op' ∧ p = p' := by simpa using hp.symm.trans hp'
  exact ⟨hr, o, ho, hs⟩

/-- The last sub-transfer of a range takes all that remains (R88, R89). -/
theorem transferSize_last {P a b r z k : Nat} (hP : 1 ≤ P) (hr : 1 ≤ r) (hend : b + r = a + z)
    (hpage : b / P = a / P + k) (hlast : sectorCount P a z ≤ k + 1) : transferSize P b r = r := by
  obtain ⟨-, hle, -, hfill⟩ := transferSize_spec (a := b) hP hr
  by_contra hne
  obtain ⟨-, hnext⟩ := page_next hP (hfill (by omega))
  have hdiv : (b + transferSize P b r) / P ≤ (a + z - 1) / P := Nat.div_le_div_right (by omega)
  unfold sectorCount at hlast
  omega

/-- After a sub-transfer: the next one, its offset past the bytes sent, or `OK` with the whole range sent (R90, R91). -/
theorem subNext_sent {a o m : Word} {b : List Byte} (hl : configLegal s.cfg = true) (hwi : WriteInv s op)
    (hs : SubTransfer s op addr size a o m b) (h : s.subNext op = some t) :
    (∃ o', t.phase = .busy op (.command .monEntry .frame) ∧ t.work.offset = some o' ∧ o'.toNat = o.toNat + m.toNat)
      ∨ (Quiet t ∧ t.faulted = s.faulted ∧ o.toNat + m.toNat = size.toNat) := by
  obtain ⟨addr', size', a', r, o', sectors, k, m', g1, g2, g3, g4, g5, g6, g7, g8, b1, b2, b3, b4, b5, b6, b7, -, b9, -⟩ :=
    hwi.regs
  obtain rfl : addr' = addr := Option.some.inj (g1.symm.trans hs.latchAddr)
  obtain rfl : size' = size := Option.some.inj (g2.symm.trans hs.latchSize)
  obtain rfl : o' = o := Option.some.inj (g5.symm.trans hs.offset)
  obtain rfl : m' = m := Option.some.inj (g8.symm.trans hs.transfer)
  simp only [State.subNext, g3, g4, g5, g6, g7, g8, bind, Option.bind_some] at h
  split at h
  · cases h
    refine .inl ⟨o' + m', rfl, rfl, ?_⟩
    have := hs.fits
    have := size'.isLt
    bv_omega
  · cases h
    refine .inr ⟨respondWith_quiet _ _, rfl, ?_⟩
    have hall := transferSize_last (a := addr'.toNat) (z := size'.toNat) (configLegal_spec hl).2.2.1 b4 (by omega) b7
      (by omega)
    rw [b9, hall]
    exact b3

/-- The command of a point of a `WRITE` (R96, R115). -/
theorem siteCommand_write (hb : site.belongs .write = true) (hj : siteCommand s .write site = some j) :
    site = .subWrite ∨ (site = .subWren ∧ j = .wren) ∨ ((site = .monEntry ∨ site = .monPoll) ∧ j = .rdsr) := by
  cases site with
  | subWrite => exact .inl rfl
  | subWren => cases hj; exact .inr (.inl ⟨rfl, rfl⟩)
  | monEntry => cases hj; exact .inr (.inr ⟨.inl rfl, rfl⟩)
  | monPoll => cases hj; exact .inr (.inr ⟨.inr rfl, rfl⟩)
  | _ => cases hb

/-- An interaction that sends no payload leaves stored what was. -/
theorem Stored.interact {a o : Nat} (hst : Stored s.cfg s.dev a data o) (h : Engaged i s .write p)
    (hp : s.phase = .busy .write p) (ht : s.interact = some t) (hx : s.draw.wpPin = none)
    (hne : p ≠ .command .subWrite .data) : Stored s.cfg t.dev a data o := by
  have hpt := hst.passTime hx
  cases h.touches hp ht with
  | line hs => exact hpt.line hs
  | @obeys site stage j hcm hj _ _ hd ho =>
    subst hcm
    obtain ⟨-, hs⟩ | ⟨keep, -, hs⟩ := ho
    · exact hpt.line hs
    have hb : site.belongs .write = true := by
      have hb := h.atPoint.belongs
      cases stage
      · exact hb
      · exact (Bool.and_eq_true_iff.1 hb).1
    obtain rfl | ⟨-, rfl⟩ | ⟨-, rfl⟩ := siteCommand_write hb hj
    · cases stage with
      | data => exact absurd rfl hne
      | frame =>
        simp only [siteCommand, bind, Option.bind_eq_some_iff, pure, Option.some.injEq] at hj
        obtain ⟨a', -, b, -, rfl⟩ := hj
        have hsome := (sendWrite_shape s.cfg a' b).2.1
        rw [hd rfl] at hsome
        cases hsome
    · exact (hpt.setLatch true).line hs
    · exact hpt.line hs

/-- A status read with WIP clear, the device answering for itself, finds no cycle running (R53, R54). -/
theorem interact_statusRead_idle {l : List Byte} {b : Byte} (hs : Sendable s.cfg .rdsr) (hf : Framed s.cfg .rdsr s.dev)
    (hx : s.draw.rx = none) (ha : s.answer (.receive 1 .stop) = .ok l) (hb : l.head? = some b) (hw : wip b = false) :
    (s.perform (.receive 1 .stop)).dev.cycle = none := by
  obtain ⟨e, hse, hcs, hd, hans⟩ := Device.interact_receive_own (k := s.drawn) hs hf rfl (Device.interact_ok ha) hx
  obtain ⟨b', hfit, hwip⟩ := output_rdsr (k := s.drawn) hcs hd
  rw [hfit] at hans
  obtain rfl : [b'] = l := Answer.ok.inj (hans.symm.trans ha)
  cases hb
  have hidle : e.cycle = none := by
    rw [hw] at hwip
    simpa [Device.wip] using hwip.symm
  have := (Device.interact_receive_sameCell s.cfg s.drawn s.draw s.dev 1 .stop).cycle
  exact this.trans (hse.cycle.symm.trans hidle)

/-- An answered sub-transfer at a device ready for it adds its bytes to what is stored (R54, R55). -/
theorem Stored.subWrite {a o m : Word} {b : List Byte} (h : Engaged i s .write (.command .subWrite .data))
    (hp : s.phase = .busy .write (.command .subWrite .data)) (ht : s.interact = some t)
    (hst : SubTransfer s .write addr size a o m b) (hd : s.latch.data = some data)
    (hrdy : ReadyFor s.dev (.command .subWrite .data)) (hsto : Stored s.cfg s.dev addr.toNat data o.toNat)
    (hx : s.draw.wpPin = none) (hu : s.draw.reply ≠ .unanswered) (he : s.draw.reply ≠ .error) :
    Stored s.cfg t.dev addr.toNat data (o.toNat + m.toNat) := by
  obtain ⟨hcyc, hwel⟩ := hrdy
  obtain ⟨data', hd', hlen, hb⟩ := hst.data rfl
  obtain rfl : data' = data := Option.some.inj (hd'.symm.trans hd)
  cases h.touches hp ht with
  | line _ hn =>
    obtain ⟨hframe, -⟩ := hn hu _ _ _ rfl hst.command
    cases hframe
  | @obeys site stage j hcm hj _ _ _ ho =>
    cases hcm
    obtain rfl : _ = j := Option.some.inj (hst.command.symm.trans hj)
    have hs := ho.answered he
    have hpos := hst.pos
    have hblen := hst.length
    have hfit := hst.fits
    rw [(sendWrite_spec h.legal hst.address_lt (by omega)).2.1, Device.passTime_of_none hx hcyc, hst.start] at hs
    exact (hsto.startWrite h.legal hcyc hwel hb hblen (by omega) (hst.start ▸ hst.inPage) (hlen ▸ hst.inArray)).line hs

/-- An answered sub-transfer of a `WRITE` leads on with its bytes stored too, or to `OK` with all of them; a failed one to no
`OK`. -/
theorem WriteProgress.subWrite (h : Engaged (.write addr size data) s .write (.command .subWrite .data))
    (hp : s.phase = .busy .write (.command .subWrite .data)) (hw : WriteProgress addr data s)
    (hx : s.draw.wpPin = none) (ht : s.interact = some t) {call : Call} (hu : s.draw.reply ≠ .unanswered)
    (ha : advance (s.perform call) .write (.command .subWrite .data) (s.answer call) = some t) :
    WriteProgress addr data t := by
  obtain ⟨-, hwi⟩ : (Op.write = .write ∨ Op.write = .erase) ∧ WriteInv s .write := h.atPoint
  obtain ⟨addr', size', a, o, m, b, hst⟩ := hwi.subTransfer h.legal (.inl rfl)
  obtain ⟨hrdy, o', ho', hsto⟩ := hw.running _ _ hp
  obtain rfl : o = o' := Option.some.inj (hst.offset.symm.trans ho')
  obtain ⟨hla, -, hld⟩ := h.latched
  obtain rfl : addr' = addr := Option.some.inj (hst.latchAddr.symm.trans hla)
  cases hans : s.answer call with
  | time y => rw [hans] at ha; cases ha
  | error =>
    rw [hans] at ha
    cases ha
    obtain ⟨hq, hne⟩ := respond_fails (s.perform call) .errTransport (by decide)
    exact ⟨fun op p hb => absurd hb (hq.not_busy op p), fun _ hok => absurd hok hne⟩
  | ok l =>
    have hcfg : t.cfg = s.cfg := (interactionIsOneCall s t ht).1
    have hdone := hsto.subWrite h hp ht hst hld hrdy hx hu (Device.interact_ok hans)
    have hst' : SubTransfer (s.perform call) .write addr' size' a o m b := { hst with }
    rw [hans] at ha
    simp only [advance, hst'.command, bind, Option.bind_some,
      State.takeStatus_other (sendWrite_shape _ a b).2.2] at ha
    obtain ⟨o', hph, hoff, hsum⟩ | ⟨hq, hf, hall⟩ :=
      subNext_sent (by exact h.legal) (hwi.congr (s.perform call) rfl rfl ⟨rfl, rfl, rfl, rfl, rfl, rfl⟩) hst' ha
    · exact .of_busy hph trivial hoff (by rw [hcfg, hsum]; exact hdone)
    · refine ⟨fun op p hb => absurd hb (hq.not_busy op p), fun _ _ => ⟨hf.trans (h.running nofun).healthy, ?_⟩⟩
      obtain ⟨data', hd', hlen, -⟩ := hst.data rfl
      obtain rfl : data' = data := Option.some.inj (hd'.symm.trans hld)
      rw [hcfg, hlen, ← hall]
      exact hdone

/-- Time and the line leave the device as ready as it was. -/
theorem ReadyFor.line (hrdy : ReadyFor d p) (hx : x.wpPin = none) (hs : SameCell (d.passTime c x) e) : ReadyFor e p := by
  unfold ReadyFor at *
  split at hrdy
  · rw [Device.passTime_of_none hx hrdy] at hs
    exact hs.cycle.trans hrdy
  · rw [Device.passTime_of_none hx hrdy.1] at hs
    exact ⟨hs.cycle.trans hrdy.1, hs.wel.trans hrdy.2⟩
  · trivial

/-- What a command's frame needs of the device, its data phase needs. -/
theorem ReadyFor.of_frame (hrdy : ReadyFor d (.command site .frame)) : ReadyFor d (.command site .data) := by
  cases site <;> exact hrdy

/-- A frame that leads to its data phase moves the line alone. -/
theorem Engaged.frame_line {call : Call} (h : Engaged i s op (.command site .frame))
    (hp : s.phase = .busy op (.command site .frame)) (ht : s.interact = some t)
    (hj : siteCommand (s.perform call) op site = some j) (hd : (dataCall j).isSome) :
    SameCell (s.dev.passTime s.cfg s.draw) t.dev := by
  cases h.touches hp ht with
  | line hs => exact hs
  | @obeys site' stage' j' hcm hj' _ _ hn =>
    cases hcm
    obtain rfl : j' = j := Option.some.inj (hj'.symm.trans ((siteCommand_congr (s := s) rfl rfl rfl _ _).symm.trans hj))
    rw [hn rfl] at hd
    cases hd

/-- With no cycle running, an answered WREN leaves the device ready for a sub-transfer (R52). -/
theorem readyFor_subWrite (h : Engaged i s .write (.command .subWren .frame))
    (hp : s.phase = .busy .write (.command .subWren .frame)) (ht : s.interact = some t)
    (hrdy : ReadyFor s.dev (.command .subWren .frame)) (hx : s.draw.wpPin = none)
    (hu : s.draw.reply ≠ .unanswered) (he : s.draw.reply ≠ .error) :
    ReadyFor t.dev (.command .subWrite .frame) := by
  have hc : s.dev.cycle = none := hrdy
  cases h.touches hp ht with
  | line _ hn =>
    obtain ⟨-, hd⟩ := hn hu _ _ _ rfl rfl
    cases hd
  | @obeys site stage j hcm hj _ _ _ ho =>
    cases hcm
    cases hj
    have hs := ho.answered he
    rw [Device.passTime_of_none hx hc] at hs
    have hl : s.dev.setLatch s.draw true = { s.dev with wel := true } := by simp [Device.setLatch, Device.wip, hc]
    exact ⟨hs.cycle.trans (by rw [Device.obey, hl]; exact hc), hs.wel.trans (by rw [Device.obey, hl])⟩

/-- The monitor hands over to the WREN with no cycle running, the device answering for itself (R96, R97). -/
theorem readyFor_subWren {call : Call} {a : Answer} (h : Engaged i s .write p) (hc : pointCall s .write p = some call)
    (hrx : s.draw.rx = none) (ha : s.answer call = a) (hdev : t.dev = (s.perform call).dev)
    (hf : Follows p a (.command .subWren .frame)) : ReadyFor t.dev (.command .subWren .frame) := by
  obtain ⟨hp, l, b, rfl, hb, hw⟩ := hf
  have hs : Sendable s.cfg .rdsr := ⟨h.legal, rfl, rfl, rfl⟩
  have hcl : call = .receive 1 .stop := by obtain rfl | rfl := hp <;> cases hc <;> rfl
  have hfr : Framed s.cfg .rdsr s.dev := by
    obtain rfl | rfl := hp
    · exact h.framed .monEntry .rdsr rfl rfl
    · exact h.framed .monPoll .rdsr rfl rfl
  subst hcl
  exact hdev ▸ interact_statusRead_idle hs hfr hrx ha hb hw

/-- Every interaction of a `WRITE`'s run keeps its progress, the device answering for itself and the WP pin left alone. -/
theorem WriteProgress.interact (h : Engaged (.write addr size data) s op p) (hp : s.phase = .busy op p)
    (hw : WriteProgress addr data s) (hrx : s.draw.rx = none) (hx : s.draw.wpPin = none) (ht : s.interact = some t) :
    WriteProgress addr data t := by
  obtain rfl : op = .write := h.operation
  obtain ⟨hrdy, o, ho, hsto⟩ := hw.running _ _ hp
  obtain ⟨call, hc, ⟨-, rfl⟩ | ⟨hu, ha⟩⟩ := interact_at hp ht
  · exact .of_busy hp (hrdy.line hx {}) ho (hsto.passTime hx)
  by_cases hsub : p = .command .subWrite .data
  · subst hsub
    exact hw.subWrite h hp hx ht hu ha
  have hcfg : t.cfg = s.cfg := (interactionIsOneCall s t ht).1
  have hst : Stored t.cfg t.dev addr.toNat data o.toNat := hcfg ▸ hsto.interact h hp ht hx hsub
  cases advance_leads h.atPoint.belongs ha with
  | ends hq hok =>
    exact ⟨fun op p hb => absurd hb (hq.not_busy op p), fun _ hr => absurd (hok (.inl rfl) hr).1 hsub⟩
  | @data site j l hf hans hj hd hgo =>
    subst hf
    have hready := ReadyFor.of_frame (ReadyFor.line hrdy hx (h.frame_line hp ht hj hd))
    exact .of_busy (by rw [hgo]; rfl) hready (by rw [hgo]; exact ho) hst
  | @on q hq hl hof hf =>
    refine .of_busy hq ?_ ((hof hsub).trans ho) hst
    cases q with
    | command site stage =>
      cases site with
      | subWrite =>
        cases stage with
        | data => exact hf.elim
        | frame =>
          obtain ⟨rfl, l, hans⟩ := hf
          exact readyFor_subWrite h hp ht hrdy hx hu (Device.interact_ok hans)
      | subWren =>
        cases stage with
        | data => exact hf.elim
        | frame => exact readyFor_subWren h hc hrx rfl (advance_same ha).dev hf
      | _ => trivial
    | _ => trivial

/-- A run of a request that shows a response has ended (R131, R132). -/
theorem Engages.quiet (h : Engages i s) (hi : operationOf i ≠ .command) (hr : s.resp.code ≠ none) : Quiet s := by
  unfold Quiet
  cases hp : s.phase with
  | idle => exact .inl rfl
  | faulted => exact .inr rfl
  | busy op p =>
    have hg := h op p hp
    exact absurd (by rw [(hg.running (hg.operation ▸ hi)).fresh]) hr

/-- In every choice fixed by the state, the device answers for itself and the WP pin is left alone (log 6, R32). -/
def Undisturbed (s : State) : Prop := ∀ x ∈ s.draws, x.rx = none ∧ x.wpPin = none

/-- A `WRITE`'s run, interaction by interaction, as long as the state fixes the choices. -/
structure WriteRun (addr size : Word) (data : List Byte) (s : State) : Prop where
  engages : Engages (.write addr size data) s
  undisturbed : Undisturbed s
  progress : s.draws ≠ [] → WriteProgress addr data s

theorem WriteRun.interact (h : WriteRun addr size data s) (ht : s.interact = some t) : WriteRun addr size data t := by
  obtain ⟨op, p, -, hp, -⟩ := State.interact_cases ht
  obtain ⟨-, -, hdt, -⟩ := interactionIsOneCall s t ht
  have hg := h.engages op p hp
  refine ⟨hg.interact hp ht, fun x hx => h.undisturbed x (List.mem_of_mem_tail (hdt ▸ hx)), fun hne => ?_⟩
  cases hl : s.draws with
  | nil => exact absurd (by rw [hdt, hl]; rfl) hne
  | cons x xs =>
    have hd : s.draw = x := by unfold State.draw; rw [hl]
    obtain ⟨hrx, hx⟩ := h.undisturbed x (by rw [hl]; exact List.mem_cons_self)
    exact (h.progress (by rw [hl]; nofun)).interact hg hp (hd ▸ hrx) (hd ▸ hx) ht

/-- A `WRITE` that answers `OK`, the device answering for itself and the WP pin left alone: the data is stored, and the block can
serve the next request (R59). -/
theorem exec_write_stored (hdr : Undisturbed s)
    (hp : ∀ a, addr.toNat ≤ a → a < addr.toNat + size.toNat → (s.dev.endCycle s.cfg).writeProtected s.cfg a = false)
    (h : exec (.write addr size data) s = .next t) (hok : t.resp.code = some .ok) (hne : t.draws ≠ []) :
    WritePasses s addr size data ∧ Quiet t ∧ t.faulted = false ∧ t.cfg = s.cfg ∧ t.initialized = true
      ∧ Undisturbed t ∧ Stored s.cfg t.dev addr.toNat data data.length := by
  obtain ⟨hcfg, -, hini, -⟩ := requestsKeepTheRest _ s t rfl h
  have hini := hini nofun nofun
  obtain ⟨u, e, he, -, -, rfl⟩ | ⟨hpass, rfl⟩ := exec_write_next h
  · exact absurd (Option.some.inj hok) he
  have hstart : WriteProgress addr data ((writeAccepted s addr size data).writeRange .write addr size) :=
    .of_busy rfl trivial rfl ⟨fun j v hj => absurd hj (Nat.not_lt_zero j), fun a h1 h2 => hp a h1 (hpass.length ▸ h2)⟩
  obtain ⟨heng, hdraws, hprog⟩ := State.run_induct (fun _ _ hs ht => WriteRun.interact hs ht) operationFuel _
    ⟨hpass.engages, hdr, fun _ => hstart⟩
  have hq := Engages.quiet heng nofun (by rw [← State.runOperation, hok]; nofun)
  obtain ⟨hf, hst⟩ := (hprog hne).ended hq hok
  exact ⟨hpass, hq, hf, hcfg, hini.trans hpass.initialized, hdraws, hcfg ▸ hst⟩

/-! ### A `READ`'s run -/

/-- An answered frame of a command with a data phase, computed (R60, R146). -/
theorem interact_frame_ok {f : List Byte} {cs : CsMode} (hp : s.phase = .busy op (.command site .frame))
    (hj : siteCommand s op site = some j) (hf : frameCall s.cfg j = some (.transmit f cs)) (hd : (dataCall j).isSome)
    (hx : s.draw.reply = .ok) : s.interact = some ((s.perform (.transmit f cs)).goto op (.command site .data)) := by
  have hans : s.answer (.transmit f cs) = .ok [] := by
    unfold State.answer Device.interact
    rw [hx]
  have hj' : siteCommand (s.perform (.transmit f cs)) op site = some j := (siteCommand_congr rfl rfl rfl _ _).trans hj
  rw [State.interact_answered (call := .transmit f cs) hp (by simp [pointCall, hj, hf]) (by rw [hx]; nofun), hans]
  simp [advance, hj', hd]

/-- An answered data phase, computed (R77). -/
theorem interact_data_ok {call : Call} {l : List Byte} (hp : s.phase = .busy op (.command site .data))
    (hj : siteCommand s op site = some j) (hd : dataCall j = some call) (hx : s.draw.reply = .ok)
    (ha : s.answer call = .ok l) : s.interact = siteDone ((s.perform call).takeStatus j l) op l site := by
  have hj' : siteCommand (s.perform call) op site = some j := (siteCommand_congr rfl rfl rfl _ _).trans hj
  rw [State.interact_answered (call := call) hp (by simp [pointCall, hj, hd]) (by rw [hx]; nofun), ha]
  simp [advance, hj']

/-- A command `j` that receives `n` bytes has been answered with `l`, by the device itself, with no cycle running from its first
call on: configuration and latched registers are as they were, the array and the cycle as time left them. -/
structure Received (s t : State) (j : Instr) (n : Nat) (l : List Byte) : Prop where
  cfg : t.cfg = s.cfg
  latch : t.latch = s.latch
  waiting : t.waiting = false
  draws : t.draws = s.draws.tail.tail
  dev : SameCell (s.dev.passTime s.cfg s.draw) t.dev
  own : ∃ e k, SameCell (s.dev.passTime s.cfg s.draw) e ∧ e.cs = true ∧ decodeWire s.cfg ⟨e.heard, n⟩ = .ok j
    ∧ l = fit k n (e.output s.cfg k .stop n)

/-- The state between the two calls of a command that receives. -/
def frameSent (s : State) (f : List Byte) (op : Op) (site : Site) : State :=
  (s.perform (.transmit f .start)).goto op (.command site .data)

theorem frameSent_draw {f : List Byte} {rest : List Draw} (h : s.draws = x :: y :: rest) :
    (frameSent s f op site).draw = y := by
  unfold State.draw
  rw [show (frameSent s f op site).draws = y :: rest by simp [frameSent, State.perform, h]]

/-- A command that receives, answered by the device itself with no cycle running from its first call on (R53, R56, R60). -/
theorem receive_steps {rest : List Draw} (hp : s.phase = .busy op (.command site .frame))
    (hj : siteCommand s op site = some j) (hs : Sendable s.cfg j) (hd : dataCall j = some (.receive n .stop))
    (hdr : s.draws = x :: y :: rest) (hx : Answers x) (hy : Answers y) (hrx : y.rx = none) (hwp : y.wpPin = none)
    (hidle : (s.dev.passTime s.cfg s.draw).cycle = none) :
    ∃ u v l, s.interact = some u ∧ u.waiting = false ∧ u.interact = siteDone (v.takeStatus j l) op l site
      ∧ Received s v j n l := by
  have hsx : s.draw = x := by unfold State.draw; rw [hdr]
  have hsome : (dataCall j).isSome := by rw [hd]; rfl
  obtain ⟨f, hf⟩ : ∃ f, frameCall s.cfg j = some (.transmit f .start) := by
    cases transaction_of_command s.cfg hs.command with
    | single f _ hn => cases hd.symm.trans hn
    | send f l _ hn => cases hd.symm.trans hn
    | receive f m hf => exact ⟨f, hf⟩
  have huy := frameSent_draw (f := f) (op := op) (site := site) hdr
  obtain ⟨hcell, hfr⟩ : SameCell (s.dev.passTime s.cfg s.draw) (frameSent s f op site).dev
      ∧ (s.draw.reply ≠ .error → Framed s.cfg j (frameSent s f op site).dev) :=
    Device.interact_frame hs.command hsome hf
  have hfr := hfr (by rw [hsx, hx]; nofun)
  have hstill := Device.passTime_of_none (c := s.cfg) hwp (hcell.cycle.trans hidle)
  obtain ⟨e, hse, hcs, hdec, hans⟩ :=
    Device.interact_receive_own (k := (frameSent s f op site).drawn) hs hfr hd (by rw [hy]; nofun) hrx
  have hrec := Device.interact_receive_sameCell s.cfg (frameSent s f op site).drawn y (frameSent s f op site).dev n .stop
  rw [hstill] at hse hrec
  rw [← huy] at hans hrec
  exact ⟨frameSent s f op site, (frameSent s f op site).perform (.receive n .stop), _,
    interact_frame_ok hp hj hf hsome (hsx ▸ hx), rfl,
    interact_data_ok rfl ((siteCommand_congr rfl rfl rfl _ _).trans hj) hd (huy ▸ hy) hans,
    rfl, rfl, rfl, rfl, hcell.trans hrec, e, _, hcell.trans hse, hcs, hdec, rfl⟩

/-- The bytes of a stored range, read (R56, R91). -/
theorem Stored.readArray {a : Nat} (h : Stored c d a data data.length) (hcap : a + data.length ≤ capacity c)
    (he : SameCell (d.endCycle c) e) : e.readArray c a data.length = data := by
  refine List.ext_getElem (by simp [Device.readArray]) fun r h1 h2 => ?_
  simp only [Device.readArray, List.getElem_map, List.getElem_range]
  rw [Nat.mod_eq_of_lt (by omega), he.byteAt]
  exact h.sent r _ h2 (List.getElem?_eq_getElem h2)

/-- An accepted `READ`, its range latched (R107, R116). -/
def readStart (s : State) (addr size : Word) : State :=
  ((s.accept .read).latchRange addr size).goto .read (.command .readStatus .frame)

/-- A `READ` that passes its checks, computed (R109, R116). -/
theorem exec_read_eq (hl : configLegal s.cfg = true) (hq : Quiet s) (hf : s.faulted = false)
    (hini : s.initialized = true) (hz : size ≠ 0) (ho : outOfRange s.cfg addr size = false) :
    exec (.read addr size) s = .next (readStart s addr size).runOperation := by
  have hc : checkAccess ((s.accept .read).latchRange addr size) addr size = none := checkAccess_none.2 ⟨hini, hz, ho⟩
  dsimp only [exec]
  unfold execRead
  rw [beginRequest_eq hl hq, if_neg (by simp [hf])]
  simp only [hc]
  rfl

/-- The last cycle has ended at the first call of a run (R54). -/
theorem Device.passTime_ended (hx : x.wpPin = none) (h : d.cycle = none ∨ x.cycleEnds = true) :
    d.passTime c x = d.endCycle c := by
  rw [Device.passTime_of_still hx]
  obtain h | h := h
  · rw [Device.endCycle_of_none h, ite_self]
  · rw [if_pos h]

/-- A status read between cycles leads a `READ` on to its READ command (R116). -/
theorem read_status_steps (hl : configLegal s.cfg = true) (hp : s.phase = .busy .read (.command .readStatus .frame))
    {rest : List Draw} (hdr : s.draws = x :: y :: rest) (hx : Answers x) (hy : Answers y) (hrx : y.rx = none)
    (hwp : y.wpPin = none) (hidle : (s.dev.passTime s.cfg s.draw).cycle = none) :
    ∃ t, Steps 2 s t ∧ t.phase = .busy .read (.command .readData .frame) ∧ t.cfg = s.cfg
      ∧ t.latch = s.latch ∧ t.draws = rest ∧ SameCell (s.dev.passTime s.cfg s.draw) t.dev := by
  obtain ⟨u, v, l, hu, huw, huv, hv⟩ :=
    receive_steps (j := .rdsr) hp rfl ⟨hl, rfl, rfl, rfl⟩ rfl hdr hx hy hrx hwp hidle
  obtain ⟨e, k, hse, hcs, hdec, rfl⟩ := hv.own
  obtain ⟨b, hfit, hwip⟩ := output_rdsr (k := k) hcs hdec
  rw [hfit] at huv
  have hw : wip b = false := by rw [hwip, Device.wip, hse.cycle, hidle]; rfl
  have hstep : u.interact = some ((v.takeStatus .rdsr [b]).goto .read (.command .readData .frame)) :=
    huv.trans (by simp [siteDone, hw])
  exact ⟨_, .step hu huw (.step hstep hv.waiting (.refl _)), rfl, hv.cfg, hv.latch,
    hv.draws.trans (by rw [hdr]; rfl), hv.dev⟩

theorem dataCall_sendRead (c : Config) (a : Word) (m : Nat) : dataCall (sendRead c a m) = some (.receive m .stop) := by
  unfold sendRead
  split <;> [skip; split] <;> rfl

/-- A READ command between cycles ends a `READ` with the bytes of the array (R56, R116). -/
theorem read_data_steps (hl : configLegal s.cfg = true) (hp : s.phase = .busy .read (.command .readData .frame))
    (ha : s.latch.addr = some addr) (hz : s.latch.size = some size) (h1 : 1 ≤ size.toNat)
    (hcap : addr.toNat + size.toNat ≤ capacity s.cfg) {rest : List Draw} (hdr : s.draws = x :: y :: rest) (hx : Answers x) (hy : Answers y) (hrx : y.rx = none)
    (hwp : y.wpPin = none) (hidle : (s.dev.passTime s.cfg s.draw).cycle = none) :
    ∃ t e, Steps 2 s t ∧ Quiet t ∧ SameCell (s.dev.passTime s.cfg s.draw) e
      ∧ t.resp = { code := some .ok, data := some (e.readArray s.cfg addr.toNat size.toNat) } := by
  have hj : siteCommand s .read .readData = some (sendRead s.cfg addr size.toNat) := by
    simp only [siteCommand, ha, hz]
    rfl
  obtain ⟨hs, hout⟩ := sendRead_spec hl (a := addr) (by omega) h1
  obtain ⟨u, v, l, hu, huw, huv, hv⟩ := receive_steps hp hj hs (dataCall_sendRead _ _ _) hdr hx hy hrx hwp hidle
  obtain ⟨e, k, hse, hcs, hdec, hl⟩ := hv.own
  have hwip : e.wip = false := by rw [Device.wip, hse.cycle, hidle]; rfl
  rw [hout k _ e hcs hdec, Device.answerRead, hwip, if_neg Bool.false_ne_true,
    fit_of_length (by simp [Device.readArray])] at hl
  have hstep : u.interact = some ((v.takeStatus (sendRead s.cfg addr size.toNat) l).respondWith
      { code := some .ok, data := some l }) := huv
  exact ⟨_, e, .step hu huw (.step hstep (by simp [hv.waiting]) (.refl _)), respondWith_quiet _ _, hse, by rw [← hl]; rfl⟩

/-- The block reads a range with no cycle running: the request answers `OK` with the bytes of the array (R116). -/
theorem exec_read_ok (hl : configLegal s.cfg = true) (hq : Quiet s) (hf : s.faulted = false)
    (hini : s.initialized = true) (hz : size ≠ 0) (ho : outOfRange s.cfg addr size = false) {x₁ x₂ x₃ x₄ : Draw}
    {rest : List Draw} (hdr : s.draws = x₁ :: x₂ :: x₃ :: x₄ :: rest)
    (hx : ∀ x ∈ [x₁, x₂, x₃, x₄], Answers x ∧ x.rx = none ∧ x.wpPin = none)
    (hidle : (s.dev.passTime s.cfg s.draw).cycle = none) :
    ∃ t e, exec (.read addr size) s = .next t ∧ SameCell (s.dev.passTime s.cfg s.draw) e
      ∧ t.resp = { code := some .ok, data := some (e.readArray s.cfg addr.toNat size.toNat) } := by
  obtain ⟨⟨h1, -, -⟩, ⟨h2, hrx2, hwp2⟩, ⟨h3, -, hwp3⟩, h4, hrx4, hwp4⟩ := by simpa using hx
  obtain ⟨hsize, hcap⟩ := range_le_capacity hl hz ho
  obtain ⟨u, hu, hup, huc, hul, hud, hudev⟩ :=
    read_status_steps (s := readStart s addr size) hl rfl hdr h1 h2 hrx2 hwp2 hidle
  have hux : u.draw = x₃ := by unfold State.draw; rw [hud]
  have huidle : u.dev.cycle = none := hudev.cycle.trans hidle
  have hstill : u.dev.passTime u.cfg u.draw = u.dev := Device.passTime_of_none (hux ▸ hwp3) huidle
  have huc : u.cfg = s.cfg := huc
  obtain ⟨t, e, ht, htq, hte, htr⟩ := read_data_steps (addr := addr) (size := size) (huc ▸ hl) hup (by rw [hul]; rfl)
    (by rw [hul]; rfl) hsize (huc ▸ hcap) hud h3 h4 hrx4 hwp4 (by rw [hstill]; exact huidle)
  rw [hstill] at hte
  refine ⟨t, e, ?_, hudev.trans hte, huc ▸ htr⟩
  rw [exec_read_eq hl hq hf hini hz ho, (hu.trans ht).runOperation htq.not_busy (by decide)]

/-- Settles O57: the `WRITE` leaves the data stored once its last cycle ends, which it has at the `READ`'s first call; and the
`READ`, with no cycle running, answers with the array's bytes. -/
theorem readAfterWriteReturnsTheData : Obligations.ReadAfterWriteReturnsTheData := by
  intro s t addr size data _ hdr hwr h hok hlen hans hcyc
  obtain ⟨x₁, x₂, x₃, x₄, rest, hd⟩ : ∃ x₁ x₂ x₃ x₄ rest, t.draws = x₁ :: x₂ :: x₃ :: x₄ :: rest := by
    match hd : t.draws, hlen with
    | x₁ :: x₂ :: x₃ :: x₄ :: rest, _ => exact ⟨x₁, x₂, x₃, x₄, rest, rfl⟩
  obtain ⟨hpass, hq, hf, hcfg, hini, hdt, hst⟩ :=
    exec_write_stored hdr hwr h (by rw [hok]) (by rw [hd]; nofun)
  have hx (x) (hx : x ∈ [x₁, x₂, x₃, x₄]) : Answers x ∧ x.rx = none ∧ x.wpPin = none :=
    ⟨hans x (by rw [hd]; exact hx), hdt x (by rw [hd]; exact List.mem_append_left rest hx)⟩
  have hdraw : t.draw = x₁ := by unfold State.draw; rw [hd]
  have hend : t.dev.passTime t.cfg t.draw = t.dev.endCycle t.cfg :=
    Device.passTime_ended (hdraw ▸ (hx x₁ List.mem_cons_self).2.2) hcyc
  obtain ⟨u, e, hu, he, hr⟩ := exec_read_ok (hcfg ▸ hpass.legal) hq hf hini hpass.size_ne (hcfg ▸ hpass.inRange) hd hx
    (by rw [hend]; exact Device.endCycle_cycle)
  rw [hend, hcfg] at he
  obtain ⟨-, hcap⟩ := range_le_capacity hpass.legal hpass.size_ne hpass.inRange
  refine ⟨u, hu, ?_⟩
  rw [hr, hcfg, ← hpass.length, hst.readArray (by rw [hpass.length]; exact hcap) he]

end Sys2Proof.Machine
end

section
/-! Proofs about the encoding (30_encoding.md): decoding and encoding invert each other (O1, O2), the address in a frame's
bytes (O3), what is transmitted (O12), the table's words (O4) and the reserved operation code (O28). -/

namespace Sys2Proof.Machine

variable {c : Config} {i : Instr} {w : Wire} {opc op : Byte} {m : Nat} {p : List Byte} {s : State}

/-! ### An encoded instruction, read -/

/-- The codes of R69 tell the levels apart. -/
theorem levelOfCode_levelCode (l : Level) : levelOfCode (levelCode l) = l := by cases l <;> rfl

/-- A request's record reads as that request (R67). -/
theorem decodeRequest_encode {r : Request} (hw : i.wellFormed = true) (he : encode c i = .request r) :
    decodeRequest r = .ok i := by
  cases i with
  | write addr size data => cases he; exact if_pos (of_decide_eq_true hw)
  | setProt level => cases he; exact congrArg (fun l => Except.ok (Instr.setProt l)) (levelOfCode_levelCode level)
  | init | deinit | isInit | read | erase | reservedOp7 => cases he; rfl
  | _ => cases he

/-- Settles O1: each interface's decoder reads back what the encoder writes there, the commands by `decodeWire_encode`, the
requests by `decodeRequest_encode`. -/
theorem decodeOfEncodeIsInstruction : Obligations.DecodeOfEncodeIsInstruction := by
  intro c i hl hw hf
  cases i with
  | readA1 | readA2 | readA3 | writeA1 | writeA2 | writeA3 | wren | wrdi | rdsr | wrsr =>
    exact decodeWire_encode hl rfl hw hf rfl
  | init | deinit | isInit | write | read | erase | setProt | reservedOp7 =>
    exact decodeRequest_encode (c := c) hw rfl

/-! ### The frame of an address given by its bytes -/

/-- The bit of R62 cleared, and set again to what it was. -/
theorem foldA8_of_masked (h : op &&& ~~~(a8Mask c) = opc) : foldA8 c opc (op.getLsbD c.a8Bit) = op := by
  subst h
  refine BitVec.eq_of_getLsbD_eq fun n hn => ?_
  by_cases hnb : n = c.a8Bit
  · subst hnb
    exact foldA8_getLsbD ..
  · have : 1 ≤ n - c.a8Bit ∨ n < c.a8Bit := by omega
    cases op.getLsbD c.a8Bit <;> simp [foldA8, a8Mask, hn] <;> grind

theorem frameA1_of_bytes (h : op &&& ~~~(a8Mask c) = opc) (a0 : Byte) :
    frameA1 c opc (BitVec.ofBool (op.getLsbD c.a8Bit) ++ a0) = [op, a0] := by
  have h8 : (BitVec.ofBool (op.getLsbD c.a8Bit) ++ a0).getLsbD 8 = op.getLsbD c.a8Bit := by
    rw [BitVec.getLsbD_append]
    exact BitVec.getLsbD_ofBool ..
  have h0 : addrByte (BitVec.ofBool (op.getLsbD c.a8Bit) ++ a0) 0 = a0 := BitVec.extractLsb'_append_eq_right
  rw [frameA1, h8, h0, foldA8_of_masked h]

theorem frameA2_of_bytes (opc a1 a0 : Byte) : frameA2 opc (a1 ++ a0) = [opc, a1, a0] := by
  have h1 : addrByte (a1 ++ a0) 1 = a1 := BitVec.extractLsb'_append_eq_left
  have h0 : addrByte (a1 ++ a0) 0 = a0 := BitVec.extractLsb'_append_eq_right
  rw [frameA2, h1, h0]

theorem frameA3_of_bytes (opc a2 a1 a0 : Byte) : frameA3 opc (a2 ++ a1 ++ a0) = [opc, a2, a1, a0] := by
  have h2 : addrByte (a2 ++ a1 ++ a0) 2 = a2 :=
    (BitVec.extractLsb'_append_eq_of_le (by decide)).trans BitVec.extractLsb'_append_eq_left
  have h1 : addrByte (a2 ++ a1 ++ a0) 1 = a1 :=
    (BitVec.extractLsb'_append_eq_of_le (by decide)).trans BitVec.extractLsb'_append_eq_right
  have h0 : addrByte (a2 ++ a1 ++ a0) 0 = a0 := BitVec.extractLsb'_append_eq_right
  rw [frameA3, h2, h1, h0]

/-! ### A command's bytes, read -/

/-- The bytes are the encoding of a well-formed command in a format the configuration has (R60, R65). -/
def Encodes (c : Config) (w : Wire) (i : Instr) : Prop :=
  encode c i = .command w ∧ isRequest i = false ∧ i.wellFormed = true ∧ formatApplies c i = true

theorem Encodes.decode (h : Encodes c w i) (hl : configLegal c = true) : decodeWire c w = .ok i := by
  obtain ⟨he, hi, hw, hf⟩ := h
  exact decodeWire_encode hl hi hw hf he

theorem readA1_encodes (hf : abytes c = 1) (hm : 1 ≤ m) (h : op &&& ~~~(a8Mask c) = c.opcRead) (a0 : Byte) :
    Encodes c ⟨[op, a0], m⟩ (.readA1 (BitVec.ofBool (op.getLsbD c.a8Bit) ++ a0) m) :=
  ⟨by rw [encode, frameA1_of_bytes h], rfl, decide_eq_true hm, decide_eq_true hf⟩

theorem writeA1_encodes (hf : abytes c = 1) (hp : 1 ≤ p.length) (h : op &&& ~~~(a8Mask c) = c.opcWrite) (a0 : Byte) :
    Encodes c ⟨op :: a0 :: p, 0⟩ (.writeA1 (BitVec.ofBool (op.getLsbD c.a8Bit) ++ a0) p) :=
  ⟨by rw [encode, frameA1_of_bytes h]; rfl, rfl, decide_eq_true hp, decide_eq_true hf⟩

theorem readA2_encodes (hf : abytes c = 2) (hm : 1 ≤ m) (a1 a0 : Byte) :
    Encodes c ⟨[c.opcRead, a1, a0], m⟩ (.readA2 (a1 ++ a0) m) :=
  ⟨by rw [encode, frameA2_of_bytes], rfl, decide_eq_true hm, decide_eq_true hf⟩

theorem writeA2_encodes (hf : abytes c = 2) (hp : 1 ≤ p.length) (a1 a0 : Byte) :
    Encodes c ⟨c.opcWrite :: a1 :: a0 :: p, 0⟩ (.writeA2 (a1 ++ a0) p) :=
  ⟨by rw [encode, frameA2_of_bytes]; rfl, rfl, decide_eq_true hp, decide_eq_true hf⟩

theorem readA3_encodes (hf : abytes c = 3) (hm : 1 ≤ m) (a2 a1 a0 : Byte) :
    Encodes c ⟨[c.opcRead, a2, a1, a0], m⟩ (.readA3 (a2 ++ a1 ++ a0) m) :=
  ⟨by rw [encode, frameA3_of_bytes], rfl, decide_eq_true hm, decide_eq_true hf⟩

theorem writeA3_encodes (hf : abytes c = 3) (hp : 1 ≤ p.length) (a2 a1 a0 : Byte) :
    Encodes c ⟨c.opcWrite :: a2 :: a1 :: a0 :: p, 0⟩ (.writeA3 (a2 ++ a1 ++ a0) p) :=
  ⟨by rw [encode, frameA3_of_bytes]; rfl, rfl, decide_eq_true hp, decide_eq_true hf⟩

/-- A READ or WRITE, told apart by its data phase and its opcode (R60, R64). -/
theorem classify_ok {rd : Nat → Instr} {wr : List Byte → Instr} (h : classify c opc p m rd wr = .ok i) :
    (p = [] ∧ 1 ≤ m ∧ opc = c.opcRead ∧ i = rd m) ∨ (m = 0 ∧ 1 ≤ p.length ∧ opc = c.opcWrite ∧ i = wr p) := by
  unfold classify at h
  split at h
  · split at h <;> cases h
  · split at h
    · cases h; exact .inl ⟨rfl, Nat.le_add_left .., ‹_›, rfl⟩
    · cases h
  · split at h
    · cases h; exact .inr ⟨rfl, Nat.le_add_left .., ‹_›, rfl⟩
    · cases h
  · cases h

/-- What is read after an opcode and an address is a READ or a WRITE whose bytes these are, in each of the formats. -/
theorem decodeAddressed_encodes {rest : List Byte} (h : decodeAddressed c op rest m = .ok i) :
    Encodes c ⟨op :: rest, m⟩ i := by
  unfold decodeAddressed at h
  split at h
  · rename_i a0 p hf
    obtain ⟨rfl, hm, ho, rfl⟩ | ⟨rfl, hp, ho, rfl⟩ := classify_ok h
    · exact readA1_encodes hf hm ho a0
    · exact writeA1_encodes hf hp ho a0
  · rename_i a1 a0 p hf
    obtain ⟨rfl, hm, rfl, rfl⟩ | ⟨rfl, hp, rfl, rfl⟩ := classify_ok h
    · exact readA2_encodes hf hm a1 a0
    · exact writeA2_encodes hf hp a1 a0
  · rename_i a2 a1 a0 p hf
    obtain ⟨rfl, hm, rfl, rfl⟩ | ⟨rfl, hp, rfl, rfl⟩ := classify_ok h
    · exact readA3_encodes hf hm a2 a1 a0
    · exact writeA3_encodes hf hp a2 a1 a0
  · cases h

/-- Settles O2: bytes of one of the fixed shapes are their opcode's command, and any others are a READ's or WRITE's
(`decodeAddressed_encodes`). -/
theorem encodeOfDecodedCommandIsBytes : Obligations.EncodeOfDecodedCommandIsBytes := by
  intro c ⟨sent, recv⟩ i h
  unfold decodeWire at h
  dsimp only at h
  split at h
  · cases h
  · split at h
    · subst_vars; cases h; exact ⟨rfl, rfl, rfl, rfl⟩
    · split at h
      · subst_vars; cases h; exact ⟨rfl, rfl, rfl, rfl⟩
      · cases h
  · split at h
    · subst_vars; cases h; exact ⟨rfl, rfl, rfl, rfl⟩
    · cases h
  · split at h
    · subst_vars; cases h; exact ⟨rfl, rfl, rfl, rfl⟩
    · cases h
  · exact decodeAddressed_encodes h

/-! ### The address in a frame -/

theorem encode_sendRead (c : Config) (a : Word) (m : Nat) :
    encode c (sendRead c a m) = .command ⟨assemble c c.opcRead a, m⟩ := by
  unfold sendRead assemble
  split <;> [skip; split] <;> rfl

theorem encode_sendWrite (c : Config) (a : Word) (p : List Byte) :
    encode c (sendWrite c a p) = .command ⟨assemble c c.opcWrite a ++ p, 0⟩ := by
  unfold sendWrite assemble
  split <;> [skip; split] <;> rfl

/-- The commands sent for an address of the array carry that address, in whatever format (R74). -/
theorem commandAddress_sent {a : Word} (hl : configLegal c = true) (ha : a.toNat < capacity c) (m : Nat) (p : List Byte) :
    commandAddress (sendRead c a m) = some a.toNat ∧ commandAddress (sendWrite c a p) = some a.toNat := by
  obtain ⟨h1, h2, h3⟩ := toNat_setWidth_format hl ha
  unfold sendRead sendWrite
  split
  · rename_i hf
    exact ⟨congrArg some (h1 hf), congrArg some (h1 hf)⟩
  · split
    · rename_i hf
      exact ⟨congrArg some (h2 hf), congrArg some (h2 hf)⟩
    · exact ⟨congrArg some h3, congrArg some h3⟩

/-- Settles O3: bytes that encode a command read as it, and its address is their concatenation; the frame of an address of
the array encodes the command sent for it. -/
theorem frameDecodesToItsAddress : Obligations.FrameDecodesToItsAddress := by
  intro c hl
  have length {p : List Byte} (hp : p ≠ []) : 1 ≤ p.length := List.length_pos_iff.2 hp
  refine ⟨fun f0 f1 m p hf hm hp => ?_, fun f1 f2 m p hf hm hp => ?_, fun f1 f2 f3 m p hf hm hp => ?_,
    fun a m p ha hm hp => ?_⟩
  · have ha : (BitVec.ofBool (f0.getLsbD c.a8Bit) ++ f1).toNat = ((f0.getLsbD c.a8Bit).toNat <<< 8) ||| f1.toNat := by
      rw [BitVec.toNat_append, BitVec.toNat_ofBool]
    exact ⟨fun ho => ⟨_, (readA1_encodes hf hm ho f1).decode hl, congrArg some ha, _, rfl⟩,
      fun ho => ⟨_, (writeA1_encodes hf (length hp) ho f1).decode hl, congrArg some ha, _, rfl⟩⟩
  · have ha : (f1 ++ f2).toNat = (f1.toNat <<< 8) ||| f2.toNat := BitVec.toNat_append ..
    exact ⟨⟨_, (readA2_encodes hf hm f1 f2).decode hl, congrArg some ha, _, rfl⟩,
      ⟨_, (writeA2_encodes hf (length hp) f1 f2).decode hl, congrArg some ha, _, rfl⟩⟩
  · have ha : (f1 ++ f2 ++ f3).toNat = (f1.toNat <<< 16) ||| (f2.toNat <<< 8) ||| f3.toNat := by
      rw [BitVec.toNat_append, BitVec.toNat_append, Nat.shiftLeft_or_distrib, ← Nat.shiftLeft_add]
    exact ⟨⟨_, (readA3_encodes hf hm f1 f2 f3).decode hl, congrArg some ha, _, rfl⟩,
      ⟨_, (writeA3_encodes hf (length hp) f1 f2 f3).decode hl, congrArg some ha, _, rfl⟩⟩
  · obtain ⟨hra, hwa⟩ := commandAddress_sent hl ha m p
    exact ⟨⟨_, (sendRead_spec hl ha hm).1.decode (encode_sendRead c a m), hra⟩,
      ⟨_, (sendWrite_spec hl ha (length hp)).1.decode (encode_sendWrite c a p), hwa⟩⟩

/-! ### What is transmitted -/

theorem Inv.pointInv {op : Op} {p : Point} (h : Inv s) (hp : s.phase = .busy op p) : PointInv s op p := by
  have hph := h.phase
  simp only [PhaseInv, hp] at hph
  exact hph.2.1

/-- Settles O12: the command of a sound state's point is sendable (`PointInv.sendable`), and what the point calls is that
command's frame or its data phase. -/
theorem onlyTableFormsAreSent : Obligations.OnlyTableFormsAreSent := by
  intro s op p b cs h hp hc
  cases p with
  | transportInit | reference | sample => cases hc
  | command site stage =>
    obtain ⟨i, hi, hs⟩ := (h.pointInv hp).sendable h.legal
    refine ⟨i, hs.command, hs.wellFormed, hs.format, ?_⟩
    cases stage with
    | frame => exact .inl (by rwa [pointCall, hi] at hc)
    | data => exact .inr (by rwa [pointCall, hi] at hc)

/-! ### Words and records written out -/

/-- Settles O4: each word is laid out and read. -/
theorem tableWordsDecode : Obligations.TableWordsDecode := by
  unfold Obligations.TableWordsDecode
  decide

/-- A ready block that answers a request on its acceptance asks nothing of the environment (R107, R120, R131). -/
theorem Ready.responded (h : Ready s) (op : Op) (e : RespCode) :
    Responded s ((s.accept op).respond e) { code := some e } ∧ NoInteraction s ((s.accept op).respond e) := by
  refine ⟨⟨?_, rfl, rfl, rfl, h.healthy, rfl, rfl, rfl⟩, rfl, rfl, rfl, rfl⟩
  exact if_neg (Bool.eq_false_iff.1 h.healthy)

/-- Every record reads as a request but a `WRITE` whose data length is not its size (R67, R71). -/
theorem decodeRequest_ok {r : Request} (h : r.op = 3 → r.data.length = r.size.toNat) : ∃ i, decodeRequest r = .ok i := by
  unfold decodeRequest
  split
  case h_4 hop => exact ⟨_, if_pos (h (BitVec.eq_of_toNat_eq hop))⟩
  all_goals exact ⟨_, rfl⟩

/-- Settles O28: code 7 is the decoder's last case, and its meaning answers on acceptance. -/
theorem reservedOpIsAnsweredPrecond : Obligations.ReservedOpIsAnsweredPrecond := by
  refine ⟨fun r hr => ?_, fun s h => ?_, fun r => decodeRequest_ok⟩
  · unfold decodeRequest
    rw [hr]
    rfl
  · obtain ⟨hresp, hno⟩ := h.responded .reserved .errPrecond
    refine ⟨_, ?_, hresp, hno, rfl⟩
    rw [exec, execReservedOp7, beginRequest_eq h.legal (.inl h.idle), h.healthy]
    rfl

end Sys2Proof.Machine
end

section
/-! Proofs about the framer (40_framer.md), first part: the frame's bytes (O5), and that it is the framer's frame that the
engine sends for an address (O6). -/

namespace Sys2Proof.Machine

variable {c : Config} {opc : Byte} {a : Word} {n i : Nat}

/-- A byte of a shortened address is the byte of the address (R63, R76). -/
theorem addrByte_setWidth (h : 8 * i + 8 ≤ n) : addrByte (a.setWidth n) i = a.extractLsb' (8 * i) 8 := by
  refine BitVec.eq_of_getLsbD_eq fun k hk => ?_
  simp only [addrByte, BitVec.getLsbD_extractLsb', BitVec.getLsbD_setWidth]
  rw [decide_eq_true (show 8 * i + k < n by omega), Bool.true_and]

/-- The bit that `CA1` folds into the opcode is address bit 8 (R62). -/
theorem ofBool_getLsbD_setWidth : BitVec.ofBool ((a.setWidth 9).getLsbD 8) = a.extractLsb' 8 1 := by
  refine BitVec.eq_of_getLsbD_eq fun k hk => ?_
  obtain rfl : k = 0 := by omega
  simp

theorem frameA1_setWidth : frameA1 c opc (a.setWidth 9) =
    [(opc &&& ~~~(1#8 <<< c.a8Bit.val)) ||| ((a.extractLsb' 8 1).setWidth 8 <<< c.a8Bit.val), a.extractLsb' 0 8] := by
  rw [frameA1, addrByte_setWidth (by decide), foldA8, ofBool_getLsbD_setWidth, a8Mask]

theorem frameA2_setWidth : frameA2 opc (a.setWidth 16) = [opc, a.extractLsb' 8 8, a.extractLsb' 0 8] := by
  rw [frameA2, addrByte_setWidth (by decide), addrByte_setWidth (by decide)]

theorem frameA3_setWidth :
    frameA3 opc (a.setWidth 24) = [opc, a.extractLsb' 16 8, a.extractLsb' 8 8, a.extractLsb' 0 8] := by
  rw [frameA3, addrByte_setWidth (by decide), addrByte_setWidth (by decide), addrByte_setWidth (by decide)]

/-- `assemble` in each of the three formats (R75). -/
theorem assemble_of_abytes :
    (abytes c = 1 → assemble c opc a = frameA1 c opc (a.setWidth 9))
      ∧ (abytes c = 2 → assemble c opc a = frameA2 opc (a.setWidth 16))
      ∧ (abytes c = 3 → assemble c opc a = frameA3 opc (a.setWidth 24)) := by
  unfold assemble
  exact ⟨fun h => by rw [h]; rfl, fun h => by rw [h]; rfl, fun h => by rw [h]; rfl⟩

/-- A frame is its opcode byte and `ABYTES` address bytes (R60, R74). -/
theorem length_assemble (c : Config) (opc : Byte) (a : Word) : (assemble c opc a).length = 1 + abytes c := by
  obtain ⟨h1, h2, h3⟩ := assemble_of_abytes (c := c) (opc := opc) (a := a)
  obtain h | h | h := abytes_cases c
  · rw [h1 h, h]; rfl
  · rw [h2 h, h]; rfl
  · rw [h3 h, h]; rfl

/-- Settles O5: each address width selects one format (R74), and the bytes of its frame are the address's own. -/
theorem assembleWritesTheFrame : Obligations.AssembleWritesTheFrame := by
  intro c opc a
  obtain ⟨h1, h2, h3⟩ := assemble_of_abytes (c := c) (opc := opc) (a := a)
  refine ⟨fun h => ?_, fun h h' => ?_, fun h h' => ?_, length_assemble c opc a⟩
  · have hf : abytes c = 1 := if_pos h
    exact ⟨hf, (h1 hf).trans frameA1_setWidth⟩
  · have hf : abytes c = 2 := (if_neg (by omega)).trans (if_pos h')
    exact ⟨hf, (h2 hf).trans frameA2_setWidth⟩
  · have hf : abytes c = 3 := (if_neg (by omega)).trans (if_neg (by omega))
    exact ⟨hf, (h3 hf).trans frameA3_setWidth⟩

theorem frameCall_sendRead (c : Config) (a : Word) (m : Nat) :
    frameCall c (sendRead c a m) = some (.transmit (assemble c c.opcRead a) .start) := by
  unfold sendRead assemble
  split <;> [skip; split] <;> rfl

theorem frameCall_sendWrite (c : Config) (a : Word) (p : List Byte) :
    frameCall c (sendWrite c a p) = some (.transmit (assemble c c.opcWrite a) .start) := by
  unfold sendWrite assemble
  split <;> [skip; split] <;> rfl

theorem dataCall_sendWrite (c : Config) (a : Word) (p : List Byte) :
    dataCall (sendWrite c a p) = some (.transmit p .stop) := by
  unfold sendWrite
  split <;> [skip; split] <;> rfl

/-- Settles O6: `sendRead`, `sendWrite` and `assemble` choose the format by the same test, so in each format the encoder's
bytes and the two calls are those of one frame. -/
theorem sentFrameIsAssembled : Obligations.SentFrameIsAssembled := fun c a m p =>
  ⟨encode_sendRead c a m, encode_sendWrite c a p, frameCall_sendRead c a m, frameCall_sendWrite c a p,
    dataCall_sendRead c a m, dataCall_sendWrite c a p⟩

end Sys2Proof.Machine
end

section
/-! Proofs about the framer (40_framer.md), second part: a command transaction run on its own, computed: how it ends when its
calls are answered and when one of them fails (R77), and what the device has done by then. With it the commands of the table
(O45 to O48) and the failing command (O49). -/

namespace Sys2Proof.Machine

variable {c : Config} {d e : Device} {x y : Draw} {i : Instr} {s t u : State} {op : Op} {site : Site} {stage : Stage}
  {call : Call} {a : Answer} {f p l : List Byte} {lines : List Interaction} {rest : List Draw} {k m n : Nat}

/-! ### One call -/

/-- A transport call that fails answers `Error` (R135). -/
theorem State.answer_error (hr : s.draw.reply = .error) (hc : call ≠ .now) : s.answer call = .error := by
  unfold State.answer Device.interact
  rw [hr]
  cases call with
  | now => exact absurd rfl hc
  | transportInit | transmit | receive => rfl

/-- An answered `Transmit` answers `Ok` (R135). -/
theorem State.answer_transmit {cs : CsMode} (hr : s.draw.reply = .ok) : s.answer (.transmit f cs) = .ok [] := by
  unfold State.answer Device.interact
  rw [hr]

/-- A call of a command transaction that fails ends it (R77). -/
theorem interact_command_error (hp : s.phase = .busy op (.command site stage))
    (hc : pointCall s op (.command site stage) = some call) (hn : call ≠ .now) (hr : s.draw.reply = .error) :
    s.interact = some (siteFailed (s.perform call) site) := by
  rw [State.interact_answered hp hc (by rw [hr]; nofun), State.answer_error hr hn]
  cases stage <;> rfl

/-- A command has a frame, and it is transmitted (R60). -/
theorem exists_frameCall (c : Config) (hi : isRequest i = false) : ∃ f cs, frameCall c i = some (.transmit f cs) := by
  cases transaction_of_command c hi with
  | single f hf | receive f _ hf | send f _ hf => exact ⟨f, _, hf⟩

/-- A data phase is sent or received, and follows a frame that keeps the line asserted (R58, R60). -/
theorem frameCall_start (c : Config) (hi : isRequest i = false) (hd : dataCall i = some call) :
    call ≠ .now ∧ ∃ f, frameCall c i = some (.transmit f .start) := by
  cases transaction_of_command c hi with
  | single f hf hn => cases hd.symm.trans hn
  | receive f m hf hn => cases hd.symm.trans hn; exact ⟨nofun, f, hf⟩
  | send f p hf hn => cases hd.symm.trans hn; exact ⟨nofun, f, hf⟩

/-! ### A command transaction on its own -/

/-- The bare command `i`, run from `s`, ends in `t` with the answer `a`: `lines` are what it adds to the transcript, `rest` the
choices it leaves (R77, log 17). -/
structure Ends (i : Instr) (s t : State) (a : Answer) (lines : List Interaction) (rest : List Draw) : Prop where
  exec : exec i s = .next t
  transacted : Transacted s t a
  draws : t.draws = rest
  transcript : t.transcript = s.transcript ++ lines

/-- A run whose interactions lead to the command's answer is the command's, and keeps the block's registers as every bare
command does (`commandsKeepTheBlock`). -/
theorem Ends.of_steps (h : Ready s) (hs : Sendable s.cfg i) (hn : n ≤ operationFuel)
    (hr : Steps n (bareStart s i) (u.bareDone a)) (hw : u.waiting = false) (hd : u.draws = rest)
    (ht : u.transcript = s.transcript ++ lines) : Ends i s (u.bareDone a) a lines rest := by
  have hex : Machine.exec i s = .next (u.bareDone a) := by
    rw [exec_command hs.command, beginCommand_eq h.legal hs.wellFormed hs.format (.inl h.idle),
      if_neg (by simp [h.healthy]), hr.runOperation nofun hn]
  obtain ⟨hcfg, hini, hf, hhost, hkept, -⟩ := commandsKeepTheBlock i s _ hs.command hex
  obtain ⟨hlatch, hresp, -⟩ := hkept h.healthy
  exact ⟨hex, ⟨rfl, rfl, hlatch, hresp, hini, hf, hw, hcfg, hhost⟩, hd, ht⟩

/-- A bare command whose frame has been answered. -/
def bareSent (s : State) (i : Instr) (f : List Byte) : State := frameSent (bareStart s i) f .command (.bare i)

theorem bareSent_interact (hf : frameCall s.cfg i = some (.transmit f .start))
    (hd : dataCall i = some call) (hx : s.draw.reply = .ok) : (bareStart s i).interact = some (bareSent s i f) :=
  interact_frame_ok (j := i) rfl rfl hf (by rw [hd]; rfl) hx

theorem bareSent_draw (hdr : s.draws = x :: y :: rest) : (bareSent s i f).draw = y := frameSent_draw (s := bareStart s i) hdr

theorem bareSent_draws (hdr : s.draws = x :: y :: rest) : (bareSent s i f).draws.tail = rest :=
  congrArg (fun l => l.tail.tail) hdr

theorem bareSent_transcript (hx : s.draw.reply = .ok) : (bareSent s i f).transcript = s.transcript ++ [txOk f .start] :=
  congrArg (fun a => s.transcript ++ [⟨.transmit f .start, a⟩]) (State.answer_transmit (s := bareStart s i) hx)

/-- A bare command whose frame fails makes no later call (R77). -/
theorem ends_frame_error (h : Ready s) (hs : Sendable s.cfg i) (hc : frameCall s.cfg i = some call) (hn : call ≠ .now)
    (hdr : s.draws = x :: rest) (hx : x.reply = .error) :
    ∃ t, Ends i s t .error [⟨call, .error⟩] rest ∧ t.work = s.work
      ∧ t.dev = (s.dev.interact s.cfg s.drawn x call).2 := by
  have hr : (bareStart s i).draw.reply = .error := (State.draw_cons (s := bareStart s i) hdr).symm ▸ hx
  have hint : (bareStart s i).interact = some (((bareStart s i).perform call).bareDone .error) :=
    interact_command_error (site := .bare i) (stage := .frame) rfl hc hn hr
  refine ⟨_, .of_steps (n := 1) h hs (by decide) (.step hint rfl (.refl _)) rfl (congrArg List.tail hdr) ?_, rfl, ?_⟩
  · exact congrArg (fun a => s.transcript ++ [⟨call, a⟩]) (State.answer_error hr hn)
  · exact congrArg (fun x => (s.dev.interact s.cfg s.drawn x call).2) (State.draw_cons (s := bareStart s i) hdr)

/-- The device, at the end of a bare command of two calls. -/
theorem bareSent_perform_dev (hdr : s.draws = x :: y :: rest) :
    ((bareSent s i f).perform call).dev = ((bareSent s i f).dev.interact s.cfg (s.drawn + 1) y call).2 :=
  congrArg (fun y => ((bareSent s i f).dev.interact s.cfg (s.drawn + 1) y call).2) (bareSent_draw hdr)

/-- A bare command whose data phase fails makes no later call (R77). -/
theorem ends_data_error (h : Ready s) (hs : Sendable s.cfg i) (hf : frameCall s.cfg i = some (.transmit f .start))
    (hd : dataCall i = some call) (hdr : s.draws = x :: y :: rest) (hx : Answers x) (hy : y.reply = .error) :
    ∃ t, Ends i s t .error [txOk f .start, ⟨call, .error⟩] rest ∧ t.work = s.work
      ∧ t.dev = ((bareSent s i f).dev.interact s.cfg (s.drawn + 1) y call).2 := by
  have hsx : s.draw.reply = .ok := (State.draw_cons hdr).symm ▸ hx
  have hr : (bareSent s i f).draw.reply = .error := (bareSent_draw hdr).symm ▸ hy
  have hn : call ≠ .now := (frameCall_start s.cfg hs.command hd).1
  have hint : (bareSent s i f).interact = some (((bareSent s i f).perform call).bareDone .error) :=
    interact_command_error (site := .bare i) (stage := .data) rfl hd hn hr
  refine ⟨_, .of_steps (n := 2) h hs (by decide)
    (.step (bareSent_interact hf hd hsx) rfl (.step hint rfl (.refl _))) rfl (bareSent_draws hdr) ?_,
    rfl, bareSent_perform_dev hdr⟩
  rw [State.perform_transcript, State.answer_error hr hn, bareSent_transcript hsx, List.append_assoc]
  rfl

/-- A bare command of two answered calls, computed; RDSR alone keeps what it received (R86). -/
theorem ends_answered (h : Ready s) (hs : Sendable s.cfg i) (hf : frameCall s.cfg i = some (.transmit f .start))
    (hd : dataCall i = some call) (hdr : s.draws = x :: y :: rest) (hx : Answers x) (hy : Answers y)
    (ha : ((bareSent s i f).dev.interact s.cfg (s.drawn + 1) y call).1 = .ok l) :
    ∃ t, Ends i s t (.ok l) [txOk f .start, ⟨call, .ok l⟩] rest ∧ t.work = (s.takeStatus i l).work
      ∧ t.dev = ((bareSent s i f).dev.interact s.cfg (s.drawn + 1) y call).2 := by
  have hsx : s.draw.reply = .ok := (State.draw_cons hdr).symm ▸ hx
  have hr : (bareSent s i f).draw.reply = .ok := (bareSent_draw hdr).symm ▸ hy
  have ha : (bareSent s i f).answer call = .ok l := by
    unfold State.answer
    rw [bareSent_draw hdr]
    exact ha
  have hint : (bareSent s i f).interact = some ((((bareSent s i f).perform call).takeStatus i l).bareDone (.ok l)) :=
    interact_data_ok (j := i) (site := .bare i) rfl rfl hd hr ha
  refine ⟨_, .of_steps (n := 2) h hs (by decide)
    (.step (bareSent_interact hf hd hsx) rfl (.step hint (State.takeStatus_waiting ..) (.refl _)))
    (State.takeStatus_waiting ..) ?_ ?_, ?_, ?_⟩
  · rw [State.takeStatus_draws]
    exact bareSent_draws hdr
  · rw [State.takeStatus_transcript, State.perform_transcript, ha, bareSent_transcript hsx, List.append_assoc]
    rfl
  · by_cases hi : i = .rdsr
    · rw [hi]
      rfl
    · rw [State.takeStatus_other hi, State.takeStatus_other hi]
      rfl
  · rw [State.bareDone_dev, State.takeStatus_dev]
    exact bareSent_perform_dev hdr

/-- An answered frame moves the line alone, and the device has heard it (R58). -/
theorem bareSent_dev (hs : Sendable s.cfg i) (hf : frameCall s.cfg i = some (.transmit f .start))
    (hd : dataCall i = some call) (hdr : s.draws = x :: y :: rest) (hx : x.reply ≠ .error) :
    SameCell (s.dev.passTime s.cfg x) (bareSent s i f).dev ∧ Framed s.cfg i (bareSent s i f).dev := by
  have hdev : (bareSent s i f).dev = (s.dev.interact s.cfg s.drawn x (.transmit f .start)).2 :=
    congrArg (fun x => (s.dev.interact s.cfg s.drawn x (.transmit f .start)).2) (State.draw_cons (s := bareStart s i) hdr)
  rw [hdev]
  exact (Device.interact_frame hs.command (by rw [hd]; rfl) hf).imp_right fun h => h hx

/-! ### Commands that receive -/

/-- The device answered a `Receive` of `n` bytes as the data phase of the command `i`, and is `d` after it: the bytes are an
oracle's or its own, as it then is (R53, R56, log 6, log 36). -/
def AnsweredReceive (c : Config) (i : Instr) (n : Nat) (y : Draw) (d : Device) (l : List Byte) : Prop :=
  ∃ (k : Nat) (e : Device), d = e.afterReceive .stop ∧ e.cs = true ∧ decodeWire c ⟨e.heard, n⟩ = .ok i
    ∧ l = fit k n (y.rx.getD (e.output c k .stop n))

theorem AnsweredReceive.length (h : AnsweredReceive c i n y d l) : l.length = n := by
  obtain ⟨k, e, -, -, -, rfl⟩ := h
  simp [fit]

/-- An oracle's bytes are received as they are (R135). -/
theorem AnsweredReceive.oracle {b : List Byte} (h : AnsweredReceive c i n y d l) (hrx : y.rx = some b)
    (hb : b.length = n) : l = b := by
  obtain ⟨k, e, -, -, -, rfl⟩ := h
  rw [hrx]
  exact fit_of_length hb

/-- RDSR's own answer is the status byte, whether or not a cycle runs (R53). -/
theorem AnsweredReceive.status (h : AnsweredReceive c .rdsr 1 y d l) (hrx : y.rx = none) : l = [d.status] := by
  obtain ⟨k, e, rfl, hcs, hdec, rfl⟩ := h
  have hout : e.output c k .stop 1 = [e.status] := by simp [Device.output, assertBefore, hcs, hdec]
  rw [hrx, Option.getD_none, hout]
  exact fit_of_length rfl

/-- The device's output in the data phase of a READ, in each format (R56, R64). -/
theorem output_of_read {addr : Nat} (hd : dataCall i = some (.receive m .stop)) (ha : commandAddress i = some addr)
    (hcs : e.cs = true) (hdec : decodeWire c ⟨e.heard, m⟩ = .ok i) :
    e.output c k .stop m = e.answerRead c k addr m := by
  cases i with
  | readA1 | readA2 | readA3 => cases hd; cases ha; simp [Device.output, assertBefore, hcs, hdec]
  | writeA1 | writeA2 | writeA3 => cases hd
  | _ => cases ha

/-- A READ's own answer, with no cycle running, is the array from its address on (R56). -/
theorem AnsweredReceive.array {addr : Nat} (h : AnsweredReceive c i m y d l) (hd : dataCall i = some (.receive m .stop))
    (ha : commandAddress i = some addr) (hrx : y.rx = none) (hw : d.wip = false) : l = d.readArray c addr m := by
  obtain ⟨k, e, rfl, hcs, hdec, rfl⟩ := h
  have hwip : e.wip = false := hw
  rw [hrx, Option.getD_none, output_of_read hd ha hcs hdec, Device.answerRead, hwip, if_neg Bool.false_ne_true,
    fit_of_length (by simp [Device.readArray])]
  rfl

/-- The bytes of a command that receives are its frame (R60). -/
theorem exists_frame_of_receive (c : Config) (hi : isRequest i = false) (hd : dataCall i = some (.receive n .stop)) :
    ∃ f, frameCall c i = some (.transmit f .start) ∧ encode c i = .command ⟨f, n⟩ := by
  cases transaction_of_command c hi with
  | single f _ hn => cases hd.symm.trans hn
  | send f p _ hn => cases hd.symm.trans hn
  | receive f m hf hn he => cases hd.symm.trans hn; exact ⟨f, hf, he⟩

/-- The data phase of a command that receives, answered, the device having heard its frame (R58). -/
theorem Framed.answeredReceive (h : Framed c i d) (hs : Sendable c i) (hd : dataCall i = some (.receive n .stop))
    (hy : y.reply = .ok) (k : Nat) :
    ∃ l, (d.interact c k y (.receive n .stop)).1 = .ok l
      ∧ AnsweredReceive c i n y (d.interact c k y (.receive n .stop)).2 l := by
  obtain ⟨f, hf, he⟩ := exists_frame_of_receive c hs.command hd
  obtain ⟨hcs, hheard⟩ := h.passTime y f .start hf
  unfold Device.interact
  rw [hy]
  exact ⟨_, rfl, k, { d.passTime c y with reserved := y.reserved }, rfl, hcs, by rw [hheard]; exact hs.decode he, rfl⟩

/-- A bare command that receives, answered (R60, R78 to R80, R86). -/
theorem ends_receive (h : Ready s) (hs : Sendable s.cfg i) (hd : dataCall i = some (.receive n .stop))
    (hdr : s.draws = x :: y :: rest) (hx : Answers x) (hy : Answers y) :
    ∃ t f l, Ends i s t (.ok l) [txOk f .start, rxOk l .stop] rest ∧ encode s.cfg i = .command ⟨f, n⟩
      ∧ AnsweredReceive s.cfg i n y t.dev l ∧ t.work = (s.takeStatus i l).work := by
  obtain ⟨f, hf, he⟩ := exists_frame_of_receive s.cfg hs.command hd
  obtain ⟨-, hheard⟩ := bareSent_dev hs hf hd hdr (by rw [hx]; nofun)
  obtain ⟨l, hl, hans⟩ := hheard.answeredReceive hs hd hy (s.drawn + 1)
  obtain ⟨t, ht, hwork, hdev⟩ := ends_answered h hs hf hd hdr hx hy hl
  refine ⟨t, f, l, ?_, he, hdev ▸ hans, hwork⟩
  rw [rxOk, hans.length]
  exact ht

/-- Settles O45: RDSR is a command that receives one byte, which it keeps in `sr`. -/
theorem rdsrReadsTheStatusByte : Obligations.RdsrReadsTheStatusByte := by
  intro s x y rest h hdr hx hy
  obtain ⟨t, f, l, ht, he, hans, hwork⟩ := ends_receive (i := .rdsr) h ⟨h.legal, rfl, rfl, rfl⟩ rfl hdr hx hy
  obtain ⟨b, rfl⟩ := List.length_eq_one_iff.1 hans.length
  cases he
  exact ⟨t, b, ht.exec, ht.transacted, hwork, ht.draws, ht.transcript,
    fun b' hb => List.singleton_inj.1 (hans.oracle hb rfl), fun hb => List.singleton_inj.1 (hans.status hb)⟩

/-- Settles O47: READ in each format is a command that receives `m` bytes, its own answer being the array's. -/
theorem readCommandsReceive : Obligations.ReadCommandsReceive := by
  intro s i m addr x y rest h hm hfa hi ha hdr hx hy
  obtain ⟨hreq, hw, hd⟩ : isRequest i = false ∧ i.wellFormed = true ∧ dataCall i = some (.receive m .stop) := by
    obtain ⟨_, rfl⟩ | ⟨_, rfl⟩ | ⟨_, rfl⟩ := hi <;> exact ⟨rfl, decide_eq_true hm, rfl⟩
  have hne : i ≠ .rdsr := by rintro rfl; cases ha
  obtain ⟨t, f, l, ht, he, hans, hwork⟩ := ends_receive h ⟨h.legal, hreq, hw, hfa⟩ hd hdr hx hy
  rw [State.takeStatus_other hne] at hwork
  exact ⟨t, f, l, ht.exec, ht.transacted, hwork, ht.draws, hans.length, he, ht.transcript,
    fun _ => hans.oracle, hans.array hd ha⟩

/-! ### WRSR -/

/-- An accepted WRSR, once its cycle has ended: BP and WPEN are the byte's, WEL is clear, and the array is as the running cycle
leaves it (R54, R57, log 13). -/
theorem Device.startStatusWrite_endCycle {v : Byte} (ha : d.acceptsStatusWrite x = true) :
    (d.startStatusWrite x v).wip = true
      ∧ ((d.startStatusWrite x v).endCycle c).bp = Machine.bp v
      ∧ ((d.startStatusWrite x v).endCycle c).wpen = Machine.wpen v
      ∧ ((d.startStatusWrite x v).endCycle c).wel = false
      ∧ ((d.startStatusWrite x v).endCycle c).mem = (d.endCycle c).mem := by
  have : d.startStatusWrite x v = { d with cycle := some ⟨d.pendingWrites, some (Machine.bp v, Machine.wpen v)⟩ } :=
    if_pos ha
  rw [this]
  refine ⟨rfl, rfl, rfl, rfl, ?_⟩
  unfold Device.pendingWrites Device.endCycle
  cases d.cycle <;> rfl

/-- When a WRSR is accepted (R57, U13, U22). -/
theorem acceptsStatusWrite_iff :
    d.acceptsStatusWrite x = true
      ↔ (d.wip = false ∨ x.wrsrInCycle = true) ∧ d.wel = true ∧ (d.wpen && d.wp && x.wrsrBlocked) = false := by
  simp only [Device.acceptsStatusWrite, Bool.and_eq_true, Bool.or_eq_true, Bool.not_eq_true', and_assoc]

/-- When a WRSR is ignored (R57, U13, U22). -/
theorem acceptsStatusWrite_eq_false_iff :
    d.acceptsStatusWrite x = false
      ↔ (d.wip = true ∧ x.wrsrInCycle = false) ∨ d.wel = false ∨ (d.wpen && d.wp && x.wrsrBlocked) = true := by
  unfold Device.acceptsStatusWrite
  rw [Bool.and_eq_false_iff, Bool.and_eq_false_iff, Bool.or_eq_false_iff, Bool.not_eq_false', Bool.not_eq_false', or_assoc]

theorem SameCell.wip (h : SameCell d e) : e.wip = d.wip := by
  unfold Device.wip
  rw [h.cycle]

/-- Settles O46: WRSR is a command of one call, after which the device is as `startStatusWrite` leaves it but for the line. -/
theorem wrsrSendsTheByte : Obligations.WrsrSendsTheByte := by
  intro s v x rest h hdr hx
  have hs : Sendable s.cfg (.wrsr v) := ⟨h.legal, rfl, rfl, rfl⟩
  have hdraw : s.draw = x := State.draw_cons hdr
  obtain ⟨t, ht, hta, hwork, hdraws, htr, hdev⟩ := exec_single h hs rfl rfl (hdraw ▸ hx)
  have hcell : SameCell ((s.dev.passTime s.cfg x).startStatusWrite x v) t.dev := by
    rw [hdev, hdraw]
    exact (Device.interact_single hs rfl rfl).answered (by rw [hx]; nofun)
  refine ⟨t, ht, hta, hwork, by rw [hdraws, hdr]; rfl, htr, fun hcyc hwel hblk => ?_, fun hign => ?_⟩
  · obtain ⟨h1, h2, h3, h4, h5⟩ := Device.startStatusWrite_endCycle (c := s.cfg) (v := v)
      (acceptsStatusWrite_iff.2 ⟨hcyc, hwel, hblk⟩)
    have hend := hcell.endCycle (c := s.cfg)
    exact ⟨hcell.wip.trans h1, hend.bp.trans h2, hend.wpen.trans h3, hend.wel.trans h4, hend.mem.trans h5⟩
  · have hno := acceptsStatusWrite_eq_false_iff.2 hign
    rw [hcell.cycle, Device.startStatusWrite, hno]
    rfl

/-! ### Commands that send -/

/-- A bare command that sends a payload, answered: the device obeys it once both calls have let time pass (R60, R81 to R83). -/
theorem ends_send (h : Ready s) (hs : Sendable s.cfg i) (hd : dataCall i = some (.transmit p .stop))
    (hdr : s.draws = x :: y :: rest) (hx : Answers x) (hy : Answers y) :
    ∃ t f e, Ends i s t (.ok []) [txOk f .start, txOk p .stop] rest ∧ t.work = s.work
      ∧ encode s.cfg i = .command ⟨f ++ p, 0⟩ ∧ SameCell (s.dev.passTime s.cfg x) e
      ∧ SameCell ((e.passTime s.cfg y).obey s.cfg y (fun _ => true) i) t.dev := by
  obtain ⟨f, hf, he⟩ : ∃ f, frameCall s.cfg i = some (.transmit f .start) ∧ encode s.cfg i = .command ⟨f ++ p, 0⟩ := by
    cases transaction_of_command s.cfg hs.command with
    | single f _ hn => cases hd.symm.trans hn
    | receive f m _ hn => cases hd.symm.trans hn
    | send f p hf hn he => cases hd.symm.trans hn; exact ⟨f, hf, he⟩
  obtain ⟨hcell, hheard⟩ := bareSent_dev hs hf hd hdr (by rw [hx]; nofun)
  have hans : ((bareSent s i f).dev.interact s.cfg (s.drawn + 1) y (.transmit p .stop)).1 = .ok [] := by
    unfold Device.interact
    rw [hy]
  obtain ⟨t, ht, hwork, hdev⟩ := ends_answered h hs hf hd hdr hx hy hans
  have hne : i ≠ .rdsr := by rintro rfl; cases hd
  rw [State.takeStatus_other hne] at hwork
  refine ⟨t, f, _, ht, hwork, he, hcell, ?_⟩
  rw [hdev]
  exact (Device.interact_data hs hheard hd).answered (by rw [hy]; nofun)

theorem obey_of_write {addr : Nat} (hd : dataCall i = some (.transmit p .stop)) (ha : commandAddress i = some addr)
    (d : Device) : d.obey c x (fun _ => true) i = d.startWrite c addr p fun _ => true := by
  cases i with
  | writeA1 | writeA2 | writeA3 => cases hd; cases ha; rfl
  | readA1 | readA2 | readA3 => cases hd
  | _ => cases ha

/-- A payload that lands whole is recorded whole (R55). -/
theorem pageWrites_all (c : Config) (addr : Nat) (p : List Byte) :
    pageWrites c addr p (fun _ => true) = p.zipIdx.map fun (v, j) => (pageAddress c addr j, v) := by
  simp [pageWrites]

/-- When a WRITE is accepted, and that it is ignored else (R54). -/
theorem Device.startWrite_cycle {addr : Nat} {keep : Nat → Bool} :
    (d.cycle = none → d.wel = true → (d.startWrite c addr p keep).cycle = some ⟨pageWrites c addr p keep, none⟩)
      ∧ (d.cycle = none → d.wel = false → (d.startWrite c addr p keep).cycle = none)
      ∧ (d.cycle ≠ none → (d.startWrite c addr p keep).cycle = d.cycle) := by
  unfold Device.startWrite Device.wip
  refine ⟨fun hc hw => by simp [hc, hw], fun hc hw => by simp [hc, hw], fun hc => ?_⟩
  simp [Option.isSome_iff_ne_none.2 hc]

/-- Time moves the WP pin alone where no cycle ends (R32, R54). -/
theorem Device.passTime_of_running (h : d.cycle = none ∨ x.cycleEnds = false) :
    d.passTime c x = { d with wp := x.wpPin.getD d.wp } := by
  obtain h | h := h
  · obtain e | e := Device.passTime_cases (c := c) (d := d) (x := x)
    · exact e
    · exact e.trans (Device.endCycle_of_none h)
  · unfold Device.passTime
    rw [h]
    rfl

/-- Over the two calls of a command no cycle ends: the pending record and WEL are as they were. -/
theorem twoCalls_cycle_wel (he : SameCell (d.passTime c x) e) (hx : d.cycle = none ∨ x.cycleEnds = false)
    (hy : d.cycle = none ∨ y.cycleEnds = false) :
    (e.passTime c y).cycle = d.cycle ∧ (e.passTime c y).wel = d.wel := by
  rw [Device.passTime_of_running hx] at he
  have hc : e.cycle = d.cycle := he.cycle
  rw [Device.passTime_of_running (by rw [hc]; exact hy)]
  exact ⟨hc, he.wel⟩

/-- Settles O48: WRITE in each format is a command that sends its payload, and the device takes it as `startWrite` says. -/
theorem writeCommandsSend : Obligations.WriteCommandsSend := by
  intro s i p addr x y rest h hp hfa hi ha hdr hx hy
  obtain ⟨hreq, hw, hd⟩ : isRequest i = false ∧ i.wellFormed = true ∧ dataCall i = some (.transmit p .stop) := by
    obtain ⟨_, rfl⟩ | ⟨_, rfl⟩ | ⟨_, rfl⟩ := hi <;> exact ⟨rfl, decide_eq_true (List.length_pos_iff.2 hp), rfl⟩
  obtain ⟨t, f, e, ht, hwork, he, hse, hobey⟩ := ends_send h ⟨h.legal, hreq, hw, hfa⟩ hd hdr hx hy
  rw [obey_of_write hd ha] at hobey
  obtain ⟨hacc, hlatch, hbusy⟩ := Device.startWrite_cycle (c := s.cfg) (d := e.passTime s.cfg y) (addr := addr) (p := p)
    (keep := fun _ => true)
  refine ⟨t, f, ht.exec, ht.transacted, hwork, ht.draws, he, ht.transcript, fun hc hwel => ?_, fun hc hwel => ?_,
    fun hc hxe hye => ?_⟩
  · obtain ⟨hc', hw'⟩ := twoCalls_cycle_wel hse (.inl hc) (.inl hc)
    rw [hobey.cycle, hacc (hc'.trans hc) (hw'.trans hwel), pageWrites_all]
  · obtain ⟨hc', hw'⟩ := twoCalls_cycle_wel hse (.inl hc) (.inl hc)
    exact hobey.cycle.trans (hlatch (hc'.trans hc) (hw'.trans hwel))
  · obtain ⟨hc', -⟩ := twoCalls_cycle_wel hse (.inr hxe) (.inr hye)
    rw [hobey.cycle, hbusy (by rw [hc']; exact hc), hc']

/-! ### Commands that fail -/

theorem SameCell.passTime (h : SameCell d e) : SameCell (d.passTime c x) (e.passTime c x) := by
  unfold Device.passTime
  have hw : SameCell { d with wp := x.wpPin.getD d.wp } { e with wp := x.wpPin.getD e.wp } :=
    ⟨h.mem, h.cycle, h.wel, h.bp, h.wpen, congrArg x.wpPin.getD h.wp⟩
  split
  · exact hw.endCycle
  · exact hw

/-- Settles O49: a failing call ends the transaction, and no call, failing or not, touches the array but by the time that passes
before it (`Device.interact_spec`). -/
theorem failedCommandAnswersError : Obligations.FailedCommandAnswersError := by
  intro s i x rest h hreq hw hfa hdr
  have hs : Sendable s.cfg i := ⟨h.legal, hreq, hw, hfa⟩
  refine ⟨fun hx => ?_, fun d y rest' hrest hx hy hd => ?_⟩
  · obtain ⟨f, cs, hc⟩ := exists_frameCall s.cfg hreq
    obtain ⟨t, ht, hwork, hdev⟩ := ends_frame_error h hs hc nofun hdr hx
    exact ⟨t, _, ht.exec, ht.transacted, hwork, ht.draws, hc, ht.transcript,
      by rw [hdev]; exact (Device.interact_spec ..).1⟩
  · subst hrest
    obtain ⟨-, f, hf⟩ := frameCall_start s.cfg hreq hd
    obtain ⟨t, ht, hwork, hdev⟩ := ends_data_error h hs hf hd hdr hx hy
    obtain ⟨hcell, -⟩ := bareSent_dev hs hf hd hdr (by rw [hx]; nofun)
    refine ⟨t, _, ht.exec, ht.transacted, hwork, ht.draws, hf, ht.transcript, ?_⟩
    rw [hdev, (Device.interact_spec ..).1, hcell.passTime.mem]

end Sys2Proof.Machine
end

section
/-! SUPPORT and PROOFS. What the splitter makes of a range (R88 to R92): its loop cuts the range at every page boundary
inside it (`PageCut`), and the invariants and the lengths are read off the cut. -/

namespace Sys2Proof.Machine

variable {P a r k s n s' n' : Nat} {l : List (Nat × Nat)}

/-! ### A range cut at its page boundaries -/

/-- The range of `r` bytes from `a`, cut at every page boundary inside it: start and length of each piece. -/
inductive PageCut (P : Nat) : Nat → Nat → List (Nat × Nat) → Prop where
  | last {a r : Nat} (pos : 1 ≤ r) (inPage : a % P + r ≤ P) : PageCut P a r [(a, r)]
  | page {a r n : Nat} {l : List (Nat × Nat)} (pos : 1 ≤ n) (more : n < r) (fills : a % P + n = P)
      (rest : PageCut P (a + n) (r - n) l) : PageCut P a r ((a, n) :: l)

/-- A range that reaches past its first page: its first sub-transfer fills that page, and one sub-transfer fewer is left
(R88, R89). -/
theorem transferSize_first {c : Nat} (hP : 1 ≤ P) (hr : 1 ≤ r) (hc : sectorCount P a r = c + 2) :
    1 ≤ transferSize P a r ∧ transferSize P a r < r ∧ a % P + transferSize P a r = P
      ∧ sectorCount P (a + transferSize P a r) (r - transferSize P a r) = c + 1 := by
  obtain ⟨hpos, hle, hpage, hfill⟩ := transferSize_spec (a := a) hP hr
  unfold sectorCount at hc ⊢
  have hlt : transferSize P a r < r := by
    refine Nat.lt_of_le_of_ne hle fun he => ?_
    rw [he] at hpage
    have := page_end hr hpage
    omega
  obtain ⟨-, hnext⟩ := page_next hP (hfill hlt)
  rw [show a + transferSize P a r + (r - transferSize P a r) - 1 = a + r - 1 by omega, hnext]
  exact ⟨hpos, hlt, hfill hlt, by omega⟩

/-- The loop of R90, run R88's number of times, cuts the range at its page boundaries. -/
theorem splitLoop_pageCut {c : Nat} (hP : 1 ≤ P) (hr : 1 ≤ r) (hc : sectorCount P a r = c + 1) :
    PageCut P a r (splitLoop P (c + 1) a r) := by
  induction c generalizing a r with
  | zero =>
    obtain ⟨-, -, hpage, -⟩ := transferSize_spec (a := a) hP hr
    have hlast : transferSize P a r = r := transferSize_last (k := 0) hP hr rfl rfl hc.le
    rw [hlast] at hpage
    rw [splitLoop, splitLoop, hlast]
    exact .last hr hpage
  | succ c ih =>
    obtain ⟨hpos, hlt, hfill, hrest⟩ := transferSize_first hP hr hc
    exact .page hpos hlt hfill (ih (Nat.sub_pos_of_lt hlt) hrest)

theorem subTransfers_pageCut (hP : 1 ≤ P) (hr : 1 ≤ r) : PageCut P a r (subTransfers P a r) :=
  splitLoop_pageCut hP hr rfl

@[simp] theorem splitLoop_length {c : Nat} : (splitLoop P c a r).length = c := by
  induction c generalizing a r with
  | zero => rfl
  | succ c ih => simp [splitLoop, ih]

@[simp] theorem subTransfers_length : (subTransfers P a r).length = sectorCount P a r := splitLoop_length

/-! ### The pieces of a cut -/

theorem PageCut.start (h : PageCut P a r l) (hk : l[0]? = some (s, n)) : s = a := by
  cases h <;> cases hk <;> rfl

/-- Each piece ends where the next one starts. -/
theorem PageCut.contiguous (h : PageCut P a r l) (hk : l[k]? = some (s, n)) (hk' : l[k + 1]? = some (s', n')) :
    s' = s + n := by
  induction h generalizing k with
  | last => simp at hk'
  | page _ _ _ rest ih =>
    cases k with
    | zero =>
      cases hk
      exact rest.start hk'
    | succ k => exact ih hk hk'

/-- The `k`-th piece lies in the `k`-th page from the first, and at the page's start but for the first piece. -/
theorem PageCut.piece (hP : 1 ≤ P) (h : PageCut P a r l) (hk : l[k]? = some (s, n)) :
    1 ≤ n ∧ s % P + n ≤ P ∧ (1 ≤ k → s % P = 0) ∧ s / P = a / P + k := by
  induction h generalizing k with
  | last pos inPage =>
    cases k with
    | zero =>
      cases hk
      exact ⟨pos, inPage, nofun, rfl⟩
    | succ k => simp at hk
  | page pos _ fills rest ih =>
    cases k with
    | zero =>
      cases hk
      exact ⟨pos, fills.le, nofun, rfl⟩
    | succ k =>
      obtain ⟨halign, hpage⟩ := page_next hP fills
      obtain ⟨hn, hin, hk0, hdiv⟩ := ih hk
      refine ⟨hn, hin, fun _ => ?_, by omega⟩
      cases k with
      | zero => rw [rest.start hk, halign]
      | succ k => exact hk0 (Nat.le_add_left ..)

theorem PageCut.sum_lengths (h : PageCut P a r l) : (l.map Prod.snd).sum = r := by
  induction h with
  | last => simp
  | page _ more _ _ ih =>
    rw [List.map_cons, List.sum_cons, ih]
    omega

/-- Settles O9: the loop cuts the range at its page boundaries (`subTransfers_pageCut`), and each invariant is one of such a
cut. -/
theorem subTransfersCutTheRange : Obligations.SubTransfersCutTheRange := by
  intro P addr size cap hP hsize _
  have hcut : PageCut P addr size (subTransfers P addr size) := subTransfers_pageCut hP hsize
  refine ⟨subTransfers_length, fun k s n hk => ?_, hcut.sum_lengths⟩
  obtain ⟨hpos, hin, halign, hpage⟩ := hcut.piece hP hk
  refine ⟨hpos, hin, halign, hpage, ?_, fun s' n' hk' => hcut.contiguous hk hk'⟩
  rintro rfl
  exact hcut.start hk

/-! ### The lengths of a cut -/

/-- Where bytes that fit in the page of their start end in it. -/
theorem page_end_mod (hn : 1 ≤ n) (h : a % P + n ≤ P) : (a + n - 1) % P + 1 = a % P + n := by
  have hend := Nat.div_add_mod (a + n - 1) P
  have hstart := Nat.div_add_mod a P
  rw [page_end hn h] at hend
  omega

/-- A cut that begins at a page's start: whole pages, and what the range has of its last page. -/
theorem PageCut.lengths_of_aligned {c : Nat} (hP : 1 ≤ P) (h : PageCut P a r l) (ha : a % P = 0) (hc : l.length = c + 1) :
    l.map Prod.snd = List.replicate c P ++ [(a + r - 1) % P + 1] := by
  induction h generalizing c with
  | last pos inPage =>
    obtain rfl : c = 0 := (Nat.succ.inj hc).symm
    simp [page_end_mod pos inPage, ha]
  | @page a r n l pos more fills rest ih =>
    obtain ⟨c, rfl⟩ : ∃ d, c = d + 1 := by
      cases rest <;> exact ⟨_, (Nat.succ.inj hc).symm⟩
    have hn : n = P := by omega
    rw [List.map_cons, ih (page_next hP fills).1 (Nat.succ.inj hc), show a + n + (r - n) - 1 = a + r - 1 by omega, hn,
      List.replicate_succ, List.cons_append]

/-- A cut of one piece is the whole range; of two or more, the first fills the page it starts in and the others are a cut that
begins at a page's start. -/
theorem PageCut.lengths (hP : 1 ≤ P) (h : PageCut P a r l) :
    (l.length = 1 → l.map Prod.snd = [r])
      ∧ ∀ c, l.length = c + 2 →
        l.map Prod.snd = (P - a % P) :: List.replicate c P ++ [(a + r - 1) % P + 1] := by
  cases h with
  | last => exact ⟨fun _ => rfl, nofun⟩
  | @page _ _ n l _ more fills rest =>
    refine ⟨fun hlen => ?_, fun c hlen => ?_⟩
    · obtain rfl : l = [] := List.eq_nil_of_length_eq_zero (Nat.succ.inj hlen)
      cases rest
    · have hrest := rest.lengths_of_aligned hP (page_next hP fills).1 (Nat.succ.inj hlen)
      rw [List.map_cons, hrest, show a + n + (r - n) - 1 = a + r - 1 by omega, show n = P - a % P by omega,
        List.cons_append]

/-- Settles O10: `subTransfers` cuts the range at its page boundaries, so its lengths are those of a cut (`PageCut.lengths`). -/
theorem subTransferLengthsClosedForm : Obligations.SubTransferLengthsClosedForm := by
  intro P addr size hP hsize
  simpa only [subTransfers_length] using (subTransfers_pageCut (a := addr) hP hsize).lengths hP

end Sys2Proof.Machine
end

section
/-! Proofs about the write-progress monitor (42_monitor.md), first part: its status reads and clock reads computed, and with
them its entry (O15, O16), its samples (O17), what it decides after an elapsed one (O18), and two whole runs of a `WRITE`: one
that times out (O42) and one whose clock stands still (O43). -/

namespace Sys2Proof.Machine

variable {s t u : State} {op : Op} {site : Site} {x y z : Draw} {rest : List Draw} {b : Byte} {e i last t0 : Word}
  {lines lines' : List Interaction} {rest' : List Draw} {n : Nat} {addr size : Word} {data : List Byte}

/-! ### What the monitor leaves unchanged -/

/-- On the way from `s` to `t` the block has performed the interactions `lines`, all answered, and left the choices `rest`; all
but its point, its working registers and the device is as it was. -/
structure Polled (s t : State) (lines : List Interaction) (rest : List Draw) : Prop where
  draws : t.draws = rest
  transcript : t.transcript = s.transcript ++ lines
  cfg : t.cfg = s.cfg := by rfl
  latch : t.latch = s.latch := by rfl
  host : t.host = s.host := by rfl
  initialized : t.initialized = s.initialized := by rfl
  faulted : t.faulted = s.faulted := by rfl
  waiting : t.waiting = false := by rfl

theorem Polled.trans (h : Polled s u lines rest) (k : Polled u t lines' rest') : Polled s t (lines ++ lines') rest' where
  draws := k.draws
  transcript := by rw [k.transcript, h.transcript, List.append_assoc]
  cfg := k.cfg.trans h.cfg
  latch := k.latch.trans h.latch
  host := k.host.trans h.host
  initialized := k.initialized.trans h.initialized
  faulted := k.faulted.trans h.faulted
  waiting := k.waiting

/-- An answered call (R6). -/
theorem perform_polled {call : Call} {a : Answer} (ha : s.answer call = a) :
    Polled s (s.perform call) [⟨call, a⟩] s.draws.tail :=
  { draws := rfl, transcript := by rw [State.perform_transcript, ha] }

/-- A response after the monitor (R131). -/
theorem Polled.responded (h : Polled s t lines rest) (hf : s.faulted = false) (c : RespCode) :
    Responded s (t.respond c) { code := some c } where
  phase := by rw [State.respond_phase, h.faulted, hf]; rfl
  resp := rfl
  latch := rfl
  work := rfl
  faulted := h.faulted.trans hf
  waiting := h.waiting
  cfg := h.cfg
  host := h.host

theorem Steps.after (h : Steps n s t) : s.after n = some t := by
  induction h with
  | refl => rfl
  | step hi _ _ ih => simpa only [State.after, hi, Option.bind_some] using ih

/-! ### A status read (R86) -/

/-- The byte of a status read, received. -/
def State.takeByte (s : State) (b : Byte) : State := (s.perform (.receive 1 .stop)).takeStatus .rdsr [b]

/-- A status read from its frame on. -/
def State.readStatus (s : State) (op : Op) (site : Site) (b : Byte) : State :=
  (frameSent s [s.cfg.opcRdsr] op site).takeByte b

theorem State.answer_receive {l : List Byte} (hy : Receives l s.draw) :
    s.answer (.receive l.length .stop) = .ok l := by
  obtain ⟨hr, hrx⟩ := hy
  unfold State.answer Device.interact
  rw [hr, hrx]
  exact congrArg Answer.ok (fit_of_length rfl)

theorem takeByte_polled (hy : Receives [b] s.draw) : Polled s (s.takeByte b) [rxOk [b] .stop] s.draws.tail :=
  { perform_polled (State.answer_receive hy) with }

/-- The data phase of a status read, answered. -/
theorem interact_takeByte (hp : s.phase = .busy op (.command site .data)) (hj : siteCommand s op site = some .rdsr)
    (hy : Receives [b] s.draw) : s.interact = siteDone (s.takeByte b) op [b] site :=
  interact_data_ok hp hj rfl hy.1 (State.answer_receive hy)

theorem readStatus_polled (hdr : s.draws = x :: y :: rest) (hx : Answers x) (hy : Receives [b] y) :
    Polled s (s.readStatus op site b) (statusRead s.cfg b) rest := by
  have hf : Polled s (frameSent s [s.cfg.opcRdsr] op site) [txOk [s.cfg.opcRdsr] .start] (y :: rest) :=
    { perform_polled (State.answer_transmit ((State.draw_cons hdr).symm ▸ hx)) with draws := congrArg List.tail hdr }
  have hb := takeByte_polled (s := frameSent s [s.cfg.opcRdsr] op site) ((frameSent_draw hdr).symm ▸ hy)
  rw [hf.draws] at hb
  exact hf.trans hb

/-- A status read answered, the block goes on from it. -/
theorem readStatus_steps (hp : s.phase = .busy op (.command site .frame)) (hj : siteCommand s op site = some .rdsr)
    (hdr : s.draws = x :: y :: rest) (hx : Answers x) (hy : Receives [b] y)
    (ht : siteDone (s.readStatus op site b) op [b] site = some t) : Steps 2 s t := by
  have hframe : s.interact = some (frameSent s [s.cfg.opcRdsr] op site) :=
    interact_frame_ok hp hj rfl rfl ((State.draw_cons hdr).symm ▸ hx)
  have hy : Receives [b] (frameSent s [s.cfg.opcRdsr] op site).draw := (frameSent_draw hdr).symm ▸ hy
  have hdata := interact_takeByte (s := frameSent s [s.cfg.opcRdsr] op site) (op := op) (site := site) rfl
    ((siteCommand_congr rfl rfl rfl op site).trans hj) hy
  exact .step hframe rfl (.step (hdata.trans ht) (siteDone_same ht).waiting (.refl t))

/-! ### A clock read (R134) -/

theorem Shows.answered (h : Shows t0 x) : x.reply ≠ .unanswered := by
  rw [h.1]
  nofun

/-- The clock shows `t0`, as does the transcript. -/
theorem perform_now_polled (hdr : s.draws = x :: rest) (hx : Shows t0 x) :
    Polled s (s.perform .now) [⟨.now, .time t0⟩] rest :=
  { perform_polled (call := .now) (congrArg Answer.time ((State.draw_cons hdr).symm ▸ hx.2)) with
    draws := congrArg List.tail hdr }

theorem interact_sample (hp : s.phase = .busy op .sample) (hr : s.draw.reply ≠ .unanswered) :
    s.interact = (s.perform .now).monitorSample op s.draw.now :=
  State.interact_answered (call := .now) hp rfl hr

/-! ### The top of the loop -/

/-- A pass of the loop, counted. -/
def State.countPass (s : State) (i : Word) : State := { s with work := { s.work with iter := some (i + 1) } }

/-- A pass within the ceiling takes a sample (R96). -/
theorem monitorPass_sample (h : s.work.iter = some i) (hi : i.toNat + 1 ≤ s.cfg.iterCeiling) :
    s.monitorPass op = some ((s.countPass i).goto op .sample) := by
  have hle : (i + 1).toNat ≤ i.toNat + 1 := by bv_omega
  rw [monitorPass_eq h, if_neg (by omega)]
  rfl

/-- The pass past the ceiling takes none (R102, R128). -/
theorem monitorPass_fault (h : s.work.iter = some i) (hi : s.cfg.iterCeiling < i.toNat + 1) (hlt : i.toNat < 2 ^ 32 - 1) :
    s.monitorPass op = some (s.countPass i).faultInternal := by
  have heq : (i + 1).toNat = i.toNat + 1 := by bv_omega
  rw [monitorPass_eq h, if_pos (by omega)]
  rfl

/-! ### Entry -/

/-- Settles O15: the monitor leaves after the two calls of its first status read. -/
theorem monitorEntryWithWipClear : Obligations.MonitorEntryWithWipClear := by
  intro s op x y rest b hp hdr hx hy hb
  have hr : Polled s (s.readStatus op .monEntry b) (statusRead s.cfg b) rest := readStatus_polled hdr hx hy
  have hst : Steps 2 s ((s.readStatus op .monEntry b).monitorDone op) :=
    readStatus_steps hp rfl hdr hx hy ((monitorEntry_eq (b := b) rfl).trans (by rw [hb]; rfl))
  exact ⟨_, hst.after, rfl, rfl, rfl, hr.latch, hr.draws, hr.transcript⟩

/-- The monitor's working registers where its loop begins: WIP was read as set, `t0` is the reference sample (R98). -/
def Work.looping (w : Work) (b : Byte) (t0 : Word) : Work :=
  { w with sr := some b, mon := some .polling, elapsed := some 0, iter := some 1, lastMs := some t0 }

/-- A first status read with WIP set: the counters are zeroed, and the reference sample is next (R98). -/
def State.toReference (s : State) (op : Op) : State :=
  State.goto { s with work := { s.work with elapsed := some 0, iter := some 0 } } op .reference

/-- The reference sample `t0` taken, the first pass is counted and its sample is next (R98). -/
def State.toLoop (s : State) (op : Op) (t0 : Word) : State :=
  (State.countPass { s.perform .now with work := { s.work with lastMs := some t0, mon := some .polling } } 0).goto op .sample

theorem interact_reference (hp : s.phase = .busy op .reference) (hr : s.draw.reply ≠ .unanswered)
    (hi : s.work.iter = some 0) (hc : 1 ≤ s.cfg.iterCeiling) : s.interact = some (s.toLoop op s.draw.now) :=
  (State.interact_answered (call := .now) hp rfl hr).trans
    (monitorPass_sample (s := { s.perform .now with work := { s.work with lastMs := some _, mon := some _ } }) hi hc)

/-- WIP set on entry leads to the first sample of the loop (R98). -/
theorem monitorEntry_set_steps (hl : configLegal s.cfg = true) (hp : s.phase = .busy op (.command .monEntry .frame))
    (hdr : s.draws = x :: y :: z :: rest) (hx : Answers x) (hy : Receives [b] y) (hz : Shows t0 z) (hb : wip b = true) :
    ∃ t, Steps 3 s t ∧ t.phase = .busy op .sample ∧ t.work = s.work.looping b t0
      ∧ Polled s t (statusRead s.cfg b ++ [⟨.now, .time t0⟩]) rest := by
  have hsu : Steps 2 s ((s.readStatus op .monEntry b).toReference op) :=
    readStatus_steps hp rfl hdr hx hy ((monitorEntry_eq (b := b) rfl).trans (by rw [hb]; rfl))
  have hpu : Polled s ((s.readStatus op .monEntry b).toReference op) (statusRead s.cfg b) (z :: rest) :=
    { readStatus_polled hdr hx hy with }
  have hpt := hpu.trans (perform_now_polled hpu.draws hz)
  have hc : 1 ≤ s.cfg.iterCeiling := by
    obtain ⟨-, -, -, -, ht, htc, -⟩ := configLegal_spec hl
    exact ht.trans htc
  have hint := interact_reference (s := (s.readStatus op .monEntry b).toReference op) rfl
    (by rw [State.draw_cons hpu.draws]; exact hz.answered) rfl (by rw [hpu.cfg]; exact hc)
  rw [State.draw_cons hpu.draws, hz.2] at hint
  exact ⟨_, hsu.trans (.step hint rfl (.refl _)), rfl, rfl, { hpt with }⟩

/-- Settles O16: with the ceiling at least 1 (R8) the first pass is within it, so the reference sample is followed by a
sample. -/
theorem monitorEntryWithWipSet : Obligations.MonitorEntryWithWipSet := by
  intro s op x y z rest b t0 hl hp hdr hx hy hz hb
  obtain ⟨t, hst, htp, htw, ht⟩ := monitorEntry_set_steps hl hp hdr hx hy hz hb
  exact ⟨t, hst.after, htp, htw, ht.latch, ht.draws, by rw [ht.transcript, List.append_assoc]⟩

/-! ### A sample, and the status read after an elapsed one -/

/-- A changed sample, counted (R99). -/
def State.elapse (s : State) (op : Op) (e : Word) : State :=
  State.goto { s.perform .now with work := { s.work with lastMs := some s.draw.now, elapsed := some (e + 1) } } op
    (.command .monPoll .frame)

theorem interact_sample_elapsed (hp : s.phase = .busy op .sample) (hr : s.draw.reply ≠ .unanswered)
    (hl : s.work.lastMs = some last) (he : s.work.elapsed = some e) (hx : s.draw.now ≠ last) :
    s.interact = some (s.elapse op e) :=
  (interact_sample hp hr).trans (monitorSample_elapsed hl hx he)

theorem interact_sample_same (hp : s.phase = .busy op .sample) (hr : s.draw.reply ≠ .unanswered)
    (hl : s.work.lastMs = some s.draw.now) : s.interact = (s.perform .now).monitorPass op :=
  (interact_sample hp hr).trans (monitorSample_same_ms hl)

/-- Settles O17: the sample either differs from the last one, or starts the next pass, which the ceiling decides. -/
theorem monitorCountsChangedSamples : Obligations.MonitorCountsChangedSamples := by
  intro s op last e i hp hr hl he hi hlt
  by_cases hx : s.draw.now = last
  · subst hx
    have hint := interact_sample_same hp hr hl
    by_cases hc : i.toNat + 1 ≤ s.cfg.iterCeiling
    · exact ⟨_, hint.trans (monitorPass_sample hi hc), rfl, fun h => absurd rfl h, fun _ _ => ⟨rfl, rfl, rfl⟩,
        fun _ h => absurd hc (Nat.not_le.2 h)⟩
    · exact ⟨_, hint.trans (monitorPass_fault hi (Nat.not_le.1 hc) hlt), rfl, fun h => absurd rfl h,
        fun _ h => absurd h hc, fun _ _ => ⟨rfl, rfl, rfl, rfl, rfl⟩⟩
  · exact ⟨_, interact_sample_elapsed hp hr hl he hx, rfl, fun _ => ⟨rfl, rfl, rfl⟩, fun h => absurd h hx,
      fun h => absurd h hx⟩

/-- Settles O18: the byte received is looked at first, then the timeout, then the ceiling. -/
theorem monitorPollDecides : Obligations.MonitorPollDecides := by
  intro s op b e i hp hy he hi hf hlt
  have hint : s.interact = (s.takeByte b).monitorPoll op := interact_takeByte (site := .monPoll) hp rfl hy
  have hr := takeByte_polled hy
  cases hb : wip b with
  | false =>
    exact ⟨_, hint.trans (monitorPoll_done rfl hb), hr.transcript, fun _ => ⟨rfl, rfl⟩, nofun, nofun, nofun⟩
  | true =>
    by_cases ht : s.cfg.timeoutMs ≤ e.toNat
    · refine ⟨_, hint.trans (monitorPoll_timeout rfl hb he ht), hr.transcript, nofun,
        fun _ _ => Polled.responded (t := { s.takeByte b with work := _ }) { hr with } hf _, ?_, ?_⟩ <;>
        exact fun _ h => absurd ht (Nat.not_le.2 h)
    have hagain := hint.trans (monitorPoll_again rfl hb he (Nat.not_le.1 ht))
    by_cases hc : i.toNat + 1 ≤ s.cfg.iterCeiling
    · exact ⟨_, hagain.trans (monitorPass_sample hi hc), hr.transcript, nofun, fun _ h => absurd h ht,
        fun _ _ _ => ⟨rfl, rfl⟩, fun _ _ h => absurd hc (Nat.not_le.2 h)⟩
    · exact ⟨_, hagain.trans (monitorPass_fault hi (Nat.not_le.1 hc) hlt), hr.transcript, nofun,
        fun _ h => absurd h ht, fun _ _ h => absurd h hc, fun _ _ _ => ⟨rfl, rfl, rfl, rfl, rfl⟩⟩

/-! ### Whole runs of a `WRITE` -/

/-- A `WRITE` that passes its checks, computed (R109, R115). -/
theorem exec_write_eq (hq : Quiet s) (h : WritePasses s addr size data) :
    exec (.write addr size data) s = .next ((writeAccepted s addr size data).writeRange .write addr size).runOperation := by
  have hc : checkAccess (writeAccepted s addr size data) addr size = none :=
    checkAccess_none.2 ⟨h.initialized, h.size_ne, h.inRange⟩
  dsimp only [exec]
  unfold execWrite
  rw [if_pos (show (Instr.write addr size data).wellFormed = true from decide_eq_true h.length),
    beginRequest_eq h.legal hq, if_neg (by simp [h.healthy])]
  dsimp only
  split
  · rename_i e he
    cases hc.symm.trans he
  · rfl

/-- The block is at the sample of the monitor's loop (R96): the last sample, and what has been counted. -/
structure Looping (s : State) (op : Op) (last e i : Word) : Prop where
  phase : s.phase = .busy op .sample
  lastMs : s.work.lastMs = some last
  elapsed : s.work.elapsed = some e
  iter : s.work.iter = some i

/-- A `WRITE` that finds WIP set at its first wait comes to the loop of the monitor (R96, R115). -/
theorem write_enters_loop (h : WritePasses s addr size data) (hdr : s.draws = x :: y :: z :: rest) (hx : Answers x)
    (hy : Receives [b] y) (hz : Shows t0 z) (hb : wip b = true) :
    ∃ u, Steps 3 ((writeAccepted s addr size data).writeRange .write addr size) u ∧ Looping u .write t0 0 1
      ∧ Polled (writeAccepted s addr size data) u (statusRead s.cfg b ++ [⟨.now, .time t0⟩]) rest := by
  obtain ⟨u, hst, hup, huw, hu⟩ := monitorEntry_set_steps
    (s := (writeAccepted s addr size data).writeRange .write addr size) h.legal rfl hdr hx hy hz hb
  exact ⟨u, hst, ⟨hup, by rw [huw]; rfl, by rw [huw]; rfl, by rw [huw]; rfl⟩, { hu with }⟩

/-! ### A `WRITE` that times out -/

/-- What an elapsed sample and the status read after it add to the transcript (R99). -/
def pollLines (c : Config) (b : Byte) (t : Word) : List Interaction := ⟨.now, .time t⟩ :: statusRead c b

/-- The state of an elapsed sample whose status read has returned `b`. -/
def State.pollRead (s : State) (op : Op) (e : Word) (b : Byte) : State := (s.elapse op e).readStatus op .monPoll b

theorem pollRead_polled (hdr : s.draws = x :: y :: z :: rest) (hx : Shows t0 x) (hy : Answers y) (hz : Receives [b] z) :
    Polled s (s.pollRead op e b) (pollLines s.cfg b t0) rest :=
  Polled.trans (u := s.elapse op e) { perform_now_polled hdr hx with }
    (readStatus_polled (congrArg List.tail hdr) hy hz)

/-- An elapsed sample and the status read after it are three interactions (R99). -/
theorem Looping.poll_steps (h : Looping s op last e i) (hdr : s.draws = x :: y :: z :: rest) (hx : Shows t0 x)
    (hne : t0 ≠ last) (hy : Answers y) (hz : Receives [b] z) (ht : (s.pollRead op e b).monitorPoll op = some t) :
    Steps 3 s t := by
  obtain rfl : s.draw = x := State.draw_cons hdr
  refine .step (interact_sample_elapsed h.phase hx.answered h.lastMs h.elapsed (by rwa [hx.2])) rfl ?_
  exact readStatus_steps rfl rfl (congrArg List.tail hdr) hy hz ht

/-- An elapsed sample with WIP set, before the timeout and within the ceiling, leads to the loop's next sample (R96). -/
theorem Looping.poll_again (h : Looping s op last e i) (hdr : s.draws = x :: y :: z :: rest) (hx : Shows t0 x)
    (hne : t0 ≠ last) (hy : Answers y) (hz : Receives [b] z) (hb : wip b = true) (he : (e + 1).toNat < s.cfg.timeoutMs)
    (hi : i.toNat + 1 ≤ s.cfg.iterCeiling) :
    ∃ u, Steps 3 s u ∧ Looping u op t0 (e + 1) (i + 1) ∧ Polled s u (pollLines s.cfg b t0) rest := by
  have hpass := monitorPass_sample (s := s.pollRead op e b) (op := op) (i := i) h.iter hi
  have hpoll := monitorPoll_again (s := s.pollRead op e b) (op := op) (e := e + 1) rfl hb rfl he
  have hread : Polled s (s.pollRead op e b) (pollLines s.cfg b t0) rest := pollRead_polled hdr hx hy hz
  have hnow : s.draw.now = t0 := (State.draw_cons hdr).symm ▸ hx.2
  exact ⟨_, h.poll_steps hdr hx hne hy hz (hpoll.trans hpass), ⟨rfl, congrArg some hnow, rfl, rfl⟩, { hread with }⟩

/-- An elapsed sample with WIP set at the timeout ends the operation (R101). -/
theorem Looping.poll_timeout (h : Looping s op last e i) (hf : s.faulted = false) (hdr : s.draws = x :: y :: z :: rest)
    (hx : Shows t0 x) (hne : t0 ≠ last) (hy : Answers y) (hz : Receives [b] z) (hb : wip b = true)
    (he : s.cfg.timeoutMs ≤ (e + 1).toNat) :
    ∃ t, Steps 3 s t ∧ Responded s t { code := some .errTimeout } ∧ t.initialized = s.initialized
      ∧ t.draws = rest ∧ t.transcript = s.transcript ++ pollLines s.cfg b t0 := by
  have hpoll : Polled s (s.pollRead op e b) (pollLines s.cfg b t0) rest := pollRead_polled hdr hx hy hz
  exact ⟨_, h.poll_steps hdr hx hne hy hz (monitorPoll_timeout rfl hb rfl he),
    Polled.responded (t := { s.pollRead op e b with work := _ }) { hpoll with } hf _, hpoll.initialized, hpoll.draws,
    hpoll.transcript⟩

/-- From the loop's sample on, as many elapsed samples as are left to the timeout, WIP set at each, end the operation; no pass
of theirs is past the ceiling (R101, R104). -/
theorem Looping.times_out {ts : List Word} {xs : List Draw} (h : Looping s op last e i) (hl : configLegal s.cfg = true)
    (hf : s.faulted = false) (hdr : s.draws = xs ++ rest) (hb : wip b = true) (hpd : PollDraws b ts xs)
    (hae : AllElapsed last ts) (he : e.toNat < s.cfg.timeoutMs) (htime : e.toNat + ts.length = s.cfg.timeoutMs)
    (hceil : i.toNat + ts.length ≤ s.cfg.iterCeiling + 1) :
    ∃ t, Steps (3 * ts.length) s t ∧ Responded s t { code := some .errTimeout } ∧ t.initialized = s.initialized
      ∧ t.draws = rest ∧ t.transcript = s.transcript ++ ts.flatMap (pollLines s.cfg b) := by
  induction ts generalizing xs s last e i with
  | nil => exact absurd htime (Nat.ne_of_lt he)
  | cons t0 ts ih =>
    obtain ⟨x, y, z, xs, rfl, hx, hy, hz, hpd⟩ := hpd
    obtain ⟨hlast, hae⟩ := hae
    obtain ⟨-, -, -, -, -, htc, hc, -⟩ := configLegal_spec hl
    rw [List.length_cons] at htime hceil
    have he1 : (e + 1).toNat = e.toNat + 1 := by bv_omega
    obtain hend | hmore := le_or_gt s.cfg.timeoutMs (e.toNat + 1)
    · obtain rfl : ts = [] := List.length_eq_zero_iff.1 (by omega)
      obtain rfl := hpd
      simpa using h.poll_timeout hf hdr hx hlast hy hz hb (he1 ▸ hend)
    · have hi1 : (i + 1).toNat ≤ i.toNat + 1 := by bv_omega
      obtain ⟨u, hu, hloop, hpu⟩ := h.poll_again hdr hx hlast hy hz hb (he1 ▸ hmore) (by omega)
      obtain ⟨t, ht, hresp, hini, hdraws, htr⟩ := ih hloop (hpu.cfg ▸ hl) (hpu.faulted.trans hf) hpu.draws hpd hae
        (by rw [hpu.cfg]; omega) (by rw [hpu.cfg]; omega) (by rw [hpu.cfg]; omega)
      have hlen : 3 * (t0 :: ts).length = 3 + 3 * ts.length := by rw [List.length_cons, Nat.mul_succ, Nat.add_comm]
      refine ⟨t, hlen ▸ hu.trans ht,
        { hresp with cfg := hresp.cfg.trans hpu.cfg, host := hresp.host.trans hpu.host }, hini.trans hpu.initialized,
        hdraws, ?_⟩
      rw [htr, hpu.transcript, hpu.cfg, List.flatMap_cons, List.append_assoc]

/-- Settles O42: the `WRITE` comes to the loop with nothing elapsed, and the loop times out. -/
theorem writeTimesOutWhenWipStays : Obligations.WriteTimesOutWhenWipStays := by
  intro s addr size data x y z ts xs rest b t0 hs hini hz ho hlen hdr hx hy hz0 hb hpd hae hts
  have hpass : WritePasses s addr size data :=
    ⟨hs.legal, hs.healthy, hini, hz, decide_eq_false (Nat.not_lt.2 ho), hlen⟩
  obtain ⟨-, -, -, -, h1, htc, hc, -⟩ := configLegal_spec hs.legal
  obtain ⟨u, hu, hloop, hpu⟩ := write_enters_loop hpass hdr hx hy hz0 hb
  have hcfg : u.cfg = s.cfg := hpu.cfg
  obtain ⟨t, ht, hresp, hti, htd, htt⟩ := hloop.times_out (hcfg ▸ hs.legal) (hpu.faulted.trans hs.healthy) hpu.draws hb
    hpd hae (hcfg ▸ h1) (by rw [hcfg, hts]; exact Nat.zero_add _)
    (by rw [hcfg, hts, Nat.add_comm]; exact Nat.add_le_add_right htc 1)
  have hrun := (hu.trans ht).runOperation (by simp [hresp.phase]) (by rw [hts, operationFuel]; omega)
  refine ⟨t, (exec_write_eq (.inl hs.idle) hpass).trans (congrArg _ hrun),
    { hresp with cfg := hresp.cfg.trans hcfg, host := hresp.host.trans hpu.host },
    hti.trans (hpu.initialized.trans hini), htd, ?_⟩
  rw [htt, hpu.transcript, hcfg, ← List.append_assoc (writeAccepted s addr size data).transcript]
  rfl

/-! ### A `WRITE` whose clock stands still -/

/-- An unchanged sample within the ceiling leads to the next one (R99). -/
theorem Looping.same_again (h : Looping s op t0 e i) (hdr : s.draws = z :: rest) (hz : Shows t0 z)
    (hi : i.toNat + 1 ≤ s.cfg.iterCeiling) :
    ∃ u, s.interact = some u ∧ Looping u op t0 e (i + 1) ∧ Polled s u [⟨.now, .time t0⟩] rest := by
  have hpoll := perform_now_polled hdr hz
  obtain rfl : s.draw = z := State.draw_cons hdr
  exact ⟨_, (interact_sample_same h.phase hz.answered (by rw [h.lastMs, hz.2])).trans (monitorPass_sample h.iter hi),
    ⟨rfl, h.lastMs, h.elapsed, rfl⟩, { hpoll with }⟩

/-- An unchanged sample at the ceiling is the last one (R102, R128). -/
theorem Looping.same_fault (h : Looping s op t0 e i) (hdr : s.draws = z :: rest) (hz : Shows t0 z)
    (hi : s.cfg.iterCeiling < i.toNat + 1) (hlt : i.toNat < 2 ^ 32 - 1) :
    ∃ u, s.interact = some (u.faultInternal) ∧ Polled s u [⟨.now, .time t0⟩] rest := by
  have hpoll := perform_now_polled hdr hz
  obtain rfl : s.draw = z := State.draw_cons hdr
  exact ⟨_, (interact_sample_same h.phase hz.answered (by rw [h.lastMs, hz.2])).trans (monitorPass_fault h.iter hi hlt),
    { hpoll with }⟩

/-- From the loop's sample on, a clock that stands still ends in the internal fault, at the pass past the ceiling (R102). -/
theorem Looping.stalls {zs : List Draw} (h : Looping s op t0 e i) (hl : configLegal s.cfg = true)
    (hdr : s.draws = zs ++ rest) (hzs : ∀ z ∈ zs, Shows t0 z) (hi : i.toNat ≤ s.cfg.iterCeiling)
    (hceil : i.toNat + zs.length = s.cfg.iterCeiling + 1) :
    ∃ u, Steps zs.length s u.faultInternal ∧ Polled s u (List.replicate zs.length ⟨.now, .time t0⟩) rest := by
  induction zs generalizing s i with
  | nil => exact absurd hceil (Nat.ne_of_lt (Nat.lt_succ_of_le hi))
  | cons z zs ih =>
    obtain ⟨hz, hzs⟩ := List.forall_mem_cons.1 hzs
    obtain ⟨-, -, -, -, -, -, hc, -⟩ := configLegal_spec hl
    rw [List.length_cons] at hceil
    obtain hmore | hend := le_or_gt (i.toNat + 1) s.cfg.iterCeiling
    · have hi1 : (i + 1).toNat = i.toNat + 1 := by bv_omega
      obtain ⟨u, hu, hloop, hpu⟩ := h.same_again hdr hz hmore
      obtain ⟨v, hv, hpv⟩ := ih hloop (hpu.cfg ▸ hl) hpu.draws hzs (by rw [hpu.cfg]; omega) (by rw [hpu.cfg]; omega)
      exact ⟨v, .step hu hpu.waiting hv, hpu.trans hpv⟩
    · obtain rfl : zs = [] := List.length_eq_zero_iff.1 (by omega)
      obtain ⟨u, hu, hpu⟩ := h.same_fault hdr hz hend (by omega)
      exact ⟨u, .step hu hpu.waiting (.refl _), hpu⟩

/-- Settles O43: the `WRITE` comes to the loop with one pass counted, and the loop stalls. -/
theorem stalledClockFaultsTheBlock : Obligations.StalledClockFaultsTheBlock := by
  intro s addr size data x y zs rest b t0 hs hini hz ho hlen hdr hx hy hb hzs hzl
  have hpass : WritePasses s addr size data :=
    ⟨hs.legal, hs.healthy, hini, hz, decide_eq_false (Nat.not_lt.2 ho), hlen⟩
  obtain ⟨-, -, -, -, h1, htc, hc, -⟩ := configLegal_spec hs.legal
  obtain ⟨z, zs, rfl⟩ := List.exists_cons_of_length_eq_add_one hzl
  obtain ⟨hz0, hzs⟩ := List.forall_mem_cons.1 hzs
  have hzl : zs.length = s.cfg.iterCeiling := Nat.succ.inj hzl
  obtain ⟨u, hu, hloop, hpu⟩ := write_enters_loop hpass hdr hx hy hz0 hb
  have hcfg : u.cfg = s.cfg := hpu.cfg
  obtain ⟨v, hv, hpv⟩ := hloop.stalls (hcfg ▸ hs.legal) hpu.draws hzs (hcfg ▸ h1.trans htc)
    (by rw [hcfg, hzl]; exact Nat.add_comm ..)
  have hpv := hpu.trans hpv
  have hrun := (hu.trans hv).runOperation nofun (by rw [hzl, operationFuel]; omega)
  refine ⟨v.faultInternal, (exec_write_eq (.inl hs.idle) hpass).trans (congrArg _ hrun), rfl, rfl, rfl,
    hpv.initialized.trans hini, hpv.draws, ?_⟩
  rw [State.faultInternal_transcript, hpv.transcript, hzl, List.append_assoc, List.append_assoc]
  rfl

end Sys2Proof.Machine
end

section
/-! Proofs about the write-progress monitor (42_monitor.md), second part: every instruction ends (O19). An operation makes at
most as many interactions after its next one as `State.callsAfter` counts, and that is less than a run's fuel. -/

namespace Sys2Proof.Machine

variable {s t u : State} {op : Op} {p : Point} {site : Site} {stage : Stage} {a : Answer} {i : Instr} {n : Nat}

/-! ### How many interactions are left -/

/-- The passes of the monitor's loop still within the ceiling (R102). -/
def State.passesLeft (s : State) : Nat := s.cfg.iterCeiling - (s.work.iter.getD 0).toNat

/-- The sub-transfers after the current one (R90). -/
def State.subTransfersLeft (s : State) : Nat := (s.work.sectors.getD 0).toNat - (s.work.k.getD 0).toNat - 1

/-- At most as many interactions follow the last call of a place's command, in the operation or in its sub-transfer: a pass of
the monitor's loop makes three (R96). -/
def State.callsAfterSite (s : State) : Site → Nat
  | .initStatus | .deinitStatus | .readData | .protWrite | .subWrite | .bare _ => 0
  | .initWren | .deinitWrdi | .readStatus | .protWren | .subWren => 2
  | .protStatus => 4
  | .monPoll => 3 * s.passesLeft + 4
  | .monEntry => 3 * s.cfg.iterCeiling + 5

/-- At most as many interactions follow that of a point, in the operation or in its sub-transfer. -/
def State.callsAfterPoint (s : State) : Point → Nat
  | .transportInit => 4
  | .reference => 3 * s.cfg.iterCeiling + 4
  | .sample => 3 * s.passesLeft + 6
  | .command site .frame => s.callsAfterSite site + 1
  | .command site .data => s.callsAfterSite site

/-- The interactions of the later sub-transfers, at most. -/
def State.callsOfSubTransfers (s : State) : Nat := s.subTransfersLeft * (3 * s.cfg.iterCeiling + 7)

/-- At most as many interactions follow that of a point (R103). -/
def State.callsAfter (s : State) (p : Point) : Nat := s.callsOfSubTransfers + s.callsAfterPoint p

/-- The operation has ended, or fewer than `n` interactions follow its next one. -/
def Nears (t : State) (op : Op) (n : Nat) : Prop := Quiet t ∨ ∃ q, t.phase = .busy op q ∧ t.callsAfter q < n

theorem respond_nears (s : State) (c : RespCode) : Nears (s.respond c) op n := .inl (respondWith_quiet s _)

theorem goto_nears {q : Point} (h : s.callsAfter q < n) : Nears (s.goto op q) op n := .inr ⟨q, rfl, h⟩

theorem Nears.mono {m : Nat} (h : Nears t op n) (hn : n ≤ m) : Nears t op m :=
  h.imp_right fun ⟨q, hq, hlt⟩ => ⟨q, hq, hlt.trans_le hn⟩

/-! ### Each answer leaves fewer -/

/-- A pass of the loop leaves one fewer within the ceiling (R102). -/
theorem monitorPass_nears {w : Word} (hl : configLegal s.cfg = true) (hw : s.work.iter = some w)
    (hle : w.toNat ≤ s.cfg.iterCeiling) (h : s.monitorPass op = some t) :
    Nears t op (s.callsOfSubTransfers + (3 * s.passesLeft + 4)) := by
  obtain ⟨-, -, -, -, -, -, hc, -⟩ := configLegal_spec hl
  obtain hmore | hend := le_or_gt (w.toNat + 1) s.cfg.iterCeiling
  · have hw1 : (w + 1).toNat = w.toNat + 1 := by bv_omega
    have hpasses : (s.countPass w).passesLeft + 1 = s.passesLeft := by
      change s.cfg.iterCeiling - (w + 1).toNat + 1 = s.cfg.iterCeiling - (s.work.iter.getD 0).toNat
      rw [hw, Option.getD_some]
      omega
    cases (monitorPass_sample hw hmore).symm.trans h
    refine goto_nears (Nat.add_lt_add_left (n := (s.countPass w).callsAfterPoint .sample) ?_ _)
    simp only [State.callsAfterPoint]
    omega
  · cases (monitorPass_fault hw hend (by omega)).symm.trans h
    exact respond_nears _ .errInternal

/-- The monitor's end leads to the WREN (R115). -/
theorem monitorDone_nears (h : 3 < n) : Nears (s.monitorDone op) op (s.callsOfSubTransfers + n) :=
  goto_nears (Nat.add_lt_add_left h _)

theorem monitorEntry_nears (h : s.monitorEntry op = some t) :
    Nears t op (s.callsOfSubTransfers + (3 * s.cfg.iterCeiling + 5)) := by
  obtain ⟨b, hb, -⟩ := Option.bind_eq_some_iff.1 h
  cases (monitorEntry_eq hb).symm.trans h
  split
  · exact goto_nears (Nat.lt_succ_self _)
  · exact monitorDone_nears (by omega)

theorem monitorSample_nears {w x : Word} (hl : configLegal s.cfg = true) (hw : s.work.iter = some w)
    (hle : w.toNat ≤ s.cfg.iterCeiling) (h : s.monitorSample op x = some t) : Nears t op (s.callsAfter .sample) := by
  obtain ⟨l, -, h⟩ := Option.bind_eq_some_iff.1 h
  split at h
  · exact (monitorPass_nears hl hw hle h).mono (Nat.add_le_add_left (Nat.add_le_add_left (by decide) _) _)
  · obtain ⟨e, -, h⟩ := Option.bind_eq_some_iff.1 h
    cases h
    exact goto_nears (Nat.lt_succ_self _)

theorem monitorPoll_nears {w : Word} (hl : configLegal s.cfg = true) (hw : s.work.iter = some w)
    (hle : w.toNat ≤ s.cfg.iterCeiling) (h : s.monitorPoll op = some t) :
    Nears t op (s.callsOfSubTransfers + (3 * s.passesLeft + 4)) := by
  obtain ⟨b, -, h⟩ := Option.bind_eq_some_iff.1 h
  split at h
  · obtain ⟨e, -, h⟩ := Option.bind_eq_some_iff.1 h
    split at h
    · cases h
      exact respond_nears _ .errTimeout
    · exact monitorPass_nears hl hw hle h
  · cases h
    exact monitorDone_nears (by omega)

/-- The next sub-transfer leaves one fewer, and its own interactions are fewer than it was counted for (R90). -/
theorem subNext_nears (h : s.subNext op = some t) : Nears t op s.callsOfSubTransfers := by
  unfold State.subNext at h
  simp only [bind, Option.bind_eq_some_iff] at h
  obtain ⟨a, -, r, -, o, -, m, -, k, hk, sectors, hs, h⟩ := h
  split at h
  · rename_i hlt
    unfold State.subStart at h
    simp only [bind, Option.bind_eq_some_iff] at h
    obtain ⟨a, -, r, -, h⟩ := h
    cases h
    have hk1 : (k + 1).toNat = k.toNat + 1 := by have := sectors.isLt; bv_omega
    refine goto_nears ?_
    simp only [State.callsAfter, State.callsOfSubTransfers, State.subTransfersLeft, State.callsAfterPoint,
      State.callsAfterSite, hk, hs, Option.getD_some, hk1]
    obtain ⟨m, hm⟩ := Nat.exists_eq_add_of_lt hlt
    rw [show sectors.toNat - k.toNat - 1 = m + 1 by omega, show sectors.toNat - (k.toNat + 1) - 1 = m by omega,
      Nat.succ_mul m]
    omega
  · cases h
    exact respond_nears _ .ok

/-- What follows a command's last answer. -/
theorem siteDone_nears {l : List Byte} (hl : configLegal s.cfg = true)
    (hi : site = .monPoll → ∃ w, s.work.iter = some w ∧ w.toNat ≤ s.cfg.iterCeiling)
    (h : siteDone s op l site = some t) : Nears t op (s.callsAfter (.command site .data)) := by
  have on {q : Point} (hlt : s.callsAfterPoint q < s.callsAfterPoint (.command site .data)) :
      Nears (s.goto op q) op (s.callsAfter (.command site .data)) := goto_nears (Nat.add_lt_add_left hlt _)
  cases site with
  | initWren | deinitWrdi | subWren | protStatus | protWren =>
    cases h
    exact on (Nat.lt_succ_self _)
  | readData | protWrite =>
    cases h
    exact .inl (respondWith_quiet s _)
  | bare j =>
    cases h
    exact .inl (.inl rfl)
  | initStatus | deinitStatus =>
    obtain ⟨b, -, h⟩ := Option.bind_eq_some_iff.1 h
    cases h
    split <;> exact respond_nears _ _
  | readStatus =>
    obtain ⟨b, -, h⟩ := Option.bind_eq_some_iff.1 h
    cases h
    split
    · exact respond_nears _ .errBusy
    · exact on (Nat.lt_succ_self _)
  | monEntry => exact monitorEntry_nears h
  | monPoll =>
    obtain ⟨w, hw, hle⟩ := hi rfl
    exact monitorPoll_nears hl hw hle h
  | subWrite => exact subNext_nears h

theorem siteFailed_nears (s : State) (site : Site) : Nears (siteFailed s site) op n := by
  cases site with
  | bare i => exact .inl (.inl rfl)
  | _ => exact respond_nears s .errTransport

/-- The monitor's counter at the points that count a pass (R96). -/
theorem PointInv.iter (h : PointInv s op p) (hp : p = .reference ∨ p = .sample ∨ ∃ stage, p = .command .monPoll stage) :
    ∃ w, s.work.iter = some w ∧ w.toNat ≤ s.cfg.iterCeiling := by
  obtain rfl | rfl | ⟨stage, rfl⟩ := hp
  · obtain ⟨-, -, -, hw⟩ := h
    exact ⟨0, hw, Nat.zero_le _⟩
  · obtain ⟨-, -, e, w, l, -, hw, -, -, -, hle⟩ := h
    exact ⟨w, hw, hle⟩
  · obtain ⟨-, -, e, w, l, -, hw, -, -, -, hle⟩ : _ ∧ _ ∧ MonitorInv s s.cfg.timeoutMs := by cases stage <;> exact h
    exact ⟨w, hw, hle⟩

theorem takeStatus_callsAfter (s : State) (i : Instr) (l : List Byte) (p : Point) :
    (s.takeStatus i l).callsAfter p = s.callsAfter p := by
  unfold State.takeStatus
  split <;> rfl

theorem takeStatus_iter (s : State) (i : Instr) (l : List Byte) : (s.takeStatus i l).work.iter = s.work.iter := by
  unfold State.takeStatus
  split <;> rfl

/-- Every answer leaves fewer interactions (R103). -/
theorem advance_nears (hl : configLegal s.cfg = true) (hpi : PointInv s op p) (h : advance s op p a = some t) :
    Nears t op (s.callsAfter p) := by
  unfold advance at h
  split at h
  · cases h
    exact goto_nears (Nat.lt_succ_self _)
  · cases h
    exact respond_nears s .errTransport
  · obtain ⟨-, -, -, hw⟩ := hpi
    exact (monitorPass_nears (s := { s with work := { s.work with lastMs := some _, mon := some .polling } }) hl hw
      (Nat.zero_le _) h).mono (Nat.add_le_add_left (Nat.add_le_add_right (Nat.mul_le_mul_left 3 (Nat.sub_le ..)) 4) _)
  · obtain ⟨w, hw, hle⟩ := hpi.iter (.inr (.inl rfl))
    exact monitorSample_nears hl hw hle h
  · rename_i site l
    obtain ⟨j, hj, h⟩ := Option.bind_eq_some_iff.1 h
    split at h
    · cases h
      exact goto_nears (Nat.lt_succ_self _)
    · exact (siteDone_nears hl (fun hs => hpi.iter (.inr (.inr ⟨.frame, by rw [hs]⟩))) h).mono (Nat.le_succ _)
  · rename_i site l
    obtain ⟨j, hj, h⟩ := Option.bind_eq_some_iff.1 h
    rw [← takeStatus_callsAfter s j l]
    refine siteDone_nears (by rwa [State.takeStatus_cfg]) (fun hs => ?_) h
    rw [takeStatus_iter, State.takeStatus_cfg]
    exact hpi.iter (.inr (.inr ⟨.data, by rw [hs]⟩))
  · cases h
    exact siteFailed_nears s _
  all_goals cases h

/-! ### A run -/

/-- No operation runs, or its call is unanswered. -/
def Ended (s : State) : Prop := ∀ op p, s.phase = .busy op p → s.waiting = true

theorem Quiet.ended (h : Quiet s) : Ended s := fun op p hp => absurd hp (h.not_busy op p)

/-- A run ends where every interaction goes on and, answered, leaves fewer: `P n` says that at most `n` follow the next one. -/
theorem run_ended {P : Nat → State → Prop}
    (hstep : ∀ n s, P n s → ∃ t, s.interact = some t ∧ (t.waiting = true ∨ Quiet t ∨ ∃ m < n, P m t)) (m : Nat) :
    ∀ n s, P n s → n < m → Ended (s.run m) := by
  induction m with
  | zero => exact fun _ _ _ h => absurd h (Nat.not_lt_zero _)
  | succ m ih =>
    intro n s hs hn
    obtain ⟨t, ht, hend⟩ := hstep n s hs
    rw [State.run_interact ht]
    split
    · exact fun _ _ _ => ‹_›
    · obtain hw | hq | ⟨k, hk, hp⟩ := hend
      · contradiction
      · rw [State.run_quiet hq.not_busy]
        exact hq.ended
      · exact ih k t hp (by omega)

/-- One interaction of a request goes on; unanswered it waits, answered it leaves fewer. -/
theorem Launched.interact (h : Launched s op) (hp : s.phase = .busy op p) :
    ∃ t, s.interact = some t ∧ (t.waiting = true ∨ Quiet t
      ∨ Launched t op ∧ ∃ q, t.phase = .busy op q ∧ t.callsAfter q < s.callsAfter p) := by
  obtain ⟨hrun, p', hp', hpi⟩ := h
  obtain ⟨hl, hf, hop, hr, hini⟩ := hrun
  obtain rfl : p' = p := by simpa using hp'.symm.trans hp
  obtain ⟨call, hc⟩ := pointCall_some hpi
  by_cases hu : s.draw.reply = .unanswered
  · exact ⟨s.hang, State.interact_unanswered hp hc hu, .inl rfl⟩
  have hpi : PointInv (s.perform call) op p' := hpi.congr rfl rfl rfl
  have hb : BlockInv (s.perform call) := by
    refine ⟨hl, ?_, by simp [hr]⟩
    simp only [PhaseInv, State.perform_phase, hp]
    exact ⟨hf, hpi, fun e => absurd e hop, fun _ => hr, hini⟩
  obtain ⟨t, ht, hbt⟩ := advance_inv hb hp (by rw [← hc]; cases p' <;> rfl) rfl
    (Device.interact_answer s.cfg s.drawn s.draw s.dev call)
  have hn := advance_nears (s := s.perform call) hl hpi ht
  refine ⟨t, (State.interact_answered hp hc hu).trans ht, .inr (hn.imp_right ?_)⟩
  rintro ⟨q, hq, hlt⟩
  have hph := hbt.phase
  simp only [PhaseInv, hq] at hph
  obtain ⟨hft, hpt, -, hrt, hinit⟩ := hph
  exact ⟨⟨⟨hbt.legal, hft, hop, hrt hop, hinit⟩, q, hq, hpt⟩, q, hq, hlt⟩

/-- A point of a legal configuration is followed by fewer interactions than a run's fuel: the counters are 32 bits wide (R8,
R103). -/
theorem callsAfter_lt (hl : configLegal s.cfg = true) (p : Point) : s.callsAfter p < operationFuel := by
  obtain ⟨-, -, -, -, -, -, hc, -⟩ := configLegal_spec hl
  have hpasses : s.passesLeft ≤ s.cfg.iterCeiling := Nat.sub_le ..
  have hsite (site : Site) : s.callsAfterSite site ≤ 3 * s.cfg.iterCeiling + 5 := by
    cases site <;> simp only [State.callsAfterSite] <;> omega
  have hpoint : s.callsAfterPoint p ≤ 3 * s.cfg.iterCeiling + 6 := by
    cases p with
    | command site stage =>
      have := hsite site
      cases stage <;> simp only [State.callsAfterPoint] <;> omega
    | _ =>
      simp only [State.callsAfterPoint]
      omega
  have hsub : s.subTransfersLeft ≤ 2 ^ 32 := by
    have := (s.work.sectors.getD 0).isLt
    unfold State.subTransfersLeft
    omega
  have hmul : s.callsOfSubTransfers ≤ 2 ^ 32 * 2 ^ 34 := Nat.mul_le_mul hsub (by omega)
  unfold State.callsAfter operationFuel
  omega

theorem Launched.run_ended (h : Launched s op) : Ended s.runOperation := by
  obtain ⟨p, hp, -⟩ := h.atPoint
  refine Machine.run_ended (P := fun n s => Launched s op ∧ ∃ p, s.phase = .busy op p ∧ s.callsAfter p = n) ?_ _ _ s
    ⟨h, p, hp, rfl⟩ (callsAfter_lt h.legal p)
  rintro n s ⟨hs, p, hp, rfl⟩
  obtain ⟨t, ht, hend⟩ := hs.interact hp
  exact ⟨t, ht, hend.imp_right (.imp_right fun ⟨htl, q, hq, hlt⟩ => ⟨_, hlt, htl, q, hq, rfl⟩)⟩

/-- A bare command at one of its calls (log 17). -/
structure BareAt (i : Instr) (stage : Stage) (s : State) : Prop where
  phase : s.phase = .busy .command (.command (.bare i) stage)
  call : (pointCall s .command (.command (.bare i) stage)).isSome

/-- One interaction of a bare command goes on; unanswered it waits, answered it leads to the data phase or to the end (R77). -/
theorem BareAt.interact (h : BareAt i stage s) :
    ∃ t, s.interact = some t ∧ (t.waiting = true ∨ Quiet t ∨ stage = .frame ∧ BareAt i .data t) := by
  obtain ⟨call, hc⟩ := Option.isSome_iff_exists.1 h.call
  by_cases hu : s.draw.reply = .unanswered
  · exact ⟨s.hang, State.interact_unanswered h.phase hc hu, .inl rfl⟩
  have hint := State.interact_answered h.phase hc hu
  cases ha : s.answer call with
  | time y =>
    have hn : call ≠ .now := by
      cases stage
      · exact frameCall_not_now hc
      · exact dataCall_not_now hc
    exact absurd ha ((Device.interact_answer s.cfg s.drawn s.draw s.dev call).2.1 hn y)
  | error =>
    rw [ha] at hint
    exact ⟨(s.perform call).bareDone .error, hint.trans (by cases stage <;> rfl), .inr (.inl (.inl rfl))⟩
  | ok l =>
    rw [ha] at hint
    cases stage with
    | data => exact ⟨_, hint.trans rfl, .inr (.inl (.inl rfl))⟩
    | frame =>
      by_cases hd : (dataCall i).isSome
      · exact ⟨_, hint.trans (if_pos hd), .inr (.inr ⟨rfl, rfl, hd⟩)⟩
      · exact ⟨_, hint.trans (if_neg hd), .inr (.inl (.inl rfl))⟩

/-- The calls of a command after this one, at most (R60). -/
def Stage.callsAfter : Stage → Nat
  | .frame => 1
  | .data => 0

theorem bareStart_run_ended (s : State) (hi : isRequest i = false) : Ended (bareStart s i).runOperation := by
  obtain ⟨f, cs, hf⟩ := exists_frameCall s.cfg hi
  refine run_ended (P := fun n t => ∃ stage, BareAt i stage t ∧ n = stage.callsAfter) ?_ operationFuel 1 _
    ⟨.frame, ⟨rfl, Option.isSome_iff_exists.2 ⟨_, hf⟩⟩, rfl⟩ (by decide)
  rintro n t ⟨stage, ht, rfl⟩
  obtain ⟨u, hu, hend⟩ := ht.interact
  refine ⟨u, hu, hend.imp_right (.imp_right ?_)⟩
  rintro ⟨rfl, hd⟩
  exact ⟨0, Nat.one_pos, .data, hd, rfl⟩

/-- Settles O19: an instruction is answered at once, or its run makes fewer interactions than its fuel, so that it stops at the
response or at an unanswered call. -/
theorem everyInstructionEnds : Obligations.EveryInstructionEnds := by
  intro i s t op p h hp
  suffices he : Ended t from he op p hp
  cases hi : isRequest i with
  | true =>
    obtain ⟨u, -, ⟨r, -, rfl⟩ | ⟨hl, rfl⟩⟩ := exec_request_comesTo hi h
    · exact (respondWith_quiet u r).ended
    · exact hl.run_ended
  | false =>
    obtain ⟨-, -, -, -, rfl⟩ := beginCommand_next (exec_command hi s ▸ h)
    split
    · exact (respondWith_quiet s _).ended
    · exact bareStart_run_ended s hi

end Sys2Proof.Machine
end

section
/-! Proofs about transactions (43_transactions.md), first part: the steps that run a presented instruction or go on with
an operation (O20, O21), the requests answered with no interaction (O29 to O32), and the failed transport call (O14). -/

namespace Sys2Proof.Machine

variable {s t u : State} {i : Instr} {op : Op} {addr size : Word} {data : List Byte} {l : Level} {e : RespCode}

/-! ### Steps -/

/-- Settles O20: in a quiet phase `step` looks at the host's next move, and that is the instruction. -/
theorem stepRunsThePresentedInstruction : Obligations.StepRunsThePresentedInstruction := by
  intro s e rest i hl hq hh hd
  unfold step
  rw [if_pos hl, hh]
  obtain hp | hp := hq <;> simp only [hp, hd]

/-- Settles O21: of the four moves a busy phase leaves the reset and the operation's going on, and a run leaves the
host's list alone. -/
theorem busyStepKeepsTheHostWaiting : Obligations.BusyStepKeepsTheHostWaiting := by
  intro s t op p hp hreset h
  obtain ⟨rest, hh, -⟩ | ⟨-, -, -, rfl⟩ | ⟨hq, -⟩ | ⟨hq, -⟩ := step_cases h
  · exact absurd hh (hreset rest)
  · exact ⟨rfl, (runOperation_cfg_host s).2⟩
  · exact absurd hp (hq.not_busy op p)
  · exact absurd hp (hq.not_busy op p)

/-! ### Answers with no interaction -/

/-- A ready block that answers on acceptance, whatever it has latched, asks nothing of the environment (R107, R120,
R131). -/
theorem Ready.answers (h : Ready s) (ha : Accepted s u) (hn : NoInteraction s u) (r : Resp) :
    Responded s (u.respondWith r) r ∧ NoInteraction s (u.respondWith r) := by
  have hf : u.faulted = false := ha.faulted.trans h.healthy
  exact ⟨⟨by rw [State.respondWith_phase, hf]; rfl, rfl, rfl, rfl, hf, ha.waiting, ha.cfg, ha.host⟩, { hn with }⟩

/-- The instruction is answered with the error `e` and no interaction (R108, R109). -/
def Rejects (i : Instr) (s : State) (e : RespCode) : Prop :=
  ∃ t, exec i s = .next t ∧ Responded s t { code := some e } ∧ NoInteraction s t

theorem Ready.rejects (h : Ready s) (he : exec i s = .next (u.respond e)) (ha : Accepted s u) (hn : NoInteraction s u) :
    Rejects i s e :=
  ⟨_, he, h.answers ha hn _⟩

/-- A request to a ready block is its own work on the accepted state (R107). -/
theorem Ready.beginRequest_eq (h : Ready s) (op : Op) (body : State → State) :
    beginRequest op s body = .next (body (s.accept op)) := by
  rw [Machine.beginRequest_eq h.legal (.inl h.idle), h.healthy]
  rfl

/-- Settles O29: the flag is answered on acceptance. -/
theorem isInitAnswersTheFlag : Obligations.IsInitAnswersTheFlag := by
  intro s h
  obtain ⟨hr, hn⟩ := h.answers (u := s.accept .isInit) {} ⟨rfl, rfl, rfl, rfl⟩
    { code := some .ok, value := some s.initialized }
  exact ⟨_, by rw [exec, execIsInit, h.beginRequest_eq]; rfl, hr, hn, rfl⟩

/-- The accepted `SET_PROT`, its level latched (R107, R118). -/
def setProtAccepted (s : State) (l : Level) : State :=
  { s.accept .setProt with latch := { s.latch with op := opBits .setProt, level := some (levelCode l) } }

/-- Settles O32: the flag is looked at on acceptance. -/
theorem setProtNeedsInit : Obligations.SetProtNeedsInit := by
  intro s l h hini
  refine h.rejects (u := setProtAccepted s l) ?_ {} ⟨rfl, rfl, rfl, rfl⟩
  rw [exec, execSetProt, h.beginRequest_eq]
  exact congrArg _ (if_neg (Bool.eq_false_iff.1 hini))

/-! ### The access checks -/

theorem checkAccess_uninitialized (hini : s.initialized = false) : checkAccess s addr size = some .errPrecond := by
  simp [checkAccess, hini]

theorem checkAccess_empty (hini : s.initialized = true) (hz : size = 0) : checkAccess s addr size = some .errPrecond := by
  simp [checkAccess, hini, hz]

theorem checkAccess_outOfRange (hini : s.initialized = true) (hz : size ≠ 0)
    (ho : addr.toNat + size.toNat - 1 > capacity s.cfg - 1) : checkAccess s addr size = some .errAddrRange := by
  simp only [checkAccess, outOfRange, hini, hz, ho]
  rfl

/-- An `ERASE` within its limit is checked as the other accesses are (R109, R117). -/
theorem checkErase_eq_checkAccess (hle : size.toNat ≤ s.cfg.eraseMax) :
    checkErase s addr size = checkAccess s addr size := by
  simp only [checkErase, checkAccess, if_neg (Nat.not_lt.2 hle)]

/-- An `ERASE` that is uninitialized, empty or past its limit is answered `ERR_PRECOND`, whatever its range (R117). -/
theorem checkErase_precond (h : s.initialized = false ∨ size = 0 ∨ size.toNat > s.cfg.eraseMax) :
    checkErase s addr size = some .errPrecond := by
  unfold checkErase
  split <;> [rfl; split <;> [rfl; split <;> [rfl; skip]]]
  simp_all

theorem read_rejects (h : Ready s) (hc : checkAccess s addr size = some e) : Rejects (.read addr size) s e := by
  refine h.rejects (u := (s.accept .read).latchRange addr size) ?_ {} ⟨rfl, rfl, rfl, rfl⟩
  have hc : checkAccess ((s.accept .read).latchRange addr size) addr size = some e := hc
  rw [exec, execRead, h.beginRequest_eq]
  simp only [hc]

theorem write_rejects (h : Ready s) (hlen : data.length = size.toNat) (hc : checkAccess s addr size = some e) :
    Rejects (.write addr size data) s e := by
  refine h.rejects (u := writeAccepted s addr size data) ?_ {} ⟨rfl, rfl, rfl, rfl⟩
  have hc : checkAccess (writeAccepted s addr size data) addr size = some e := hc
  have hw : (Instr.write addr size data).wellFormed = true := decide_eq_true hlen
  rw [exec, execWrite, if_pos hw, h.beginRequest_eq]
  dsimp only
  split
  · rename_i e' he'
    obtain rfl : e = e' := Option.some.inj (hc.symm.trans he')
    rfl
  · rename_i he'
    cases hc.symm.trans he'

theorem erase_rejects (h : Ready s) (hc : checkErase s addr size = some e) : Rejects (.erase addr size) s e := by
  refine h.rejects (u := (s.accept .erase).latchRange addr size) ?_ {} ⟨rfl, rfl, rfl, rfl⟩
  have hc : checkErase ((s.accept .erase).latchRange addr size) addr size = some e := hc
  rw [exec, execErase, h.beginRequest_eq]
  simp only [hc]

/-- Settles O30: each of the three requests answers what `checkAccess` does, and that looks at the flag, the size and
the range in this order. -/
theorem accessChecksComeFirst : Obligations.AccessChecksComeFirst := by
  intro s i addr size data h hlen hi
  have rejects {e : RespCode} (hc : checkAccess s addr size = some e) : Rejects i s e := by
    obtain rfl | rfl | ⟨rfl, hle⟩ := hi
    · exact read_rejects h hc
    · exact write_rejects h hlen hc
    · exact erase_rejects h ((checkErase_eq_checkAccess hle).trans hc)
  exact ⟨fun hini => rejects (checkAccess_uninitialized hini), fun hini hz => rejects (checkAccess_empty hini hz),
    fun hini hz ho => rejects (checkAccess_outOfRange hini hz ho)⟩

/-- Settles O31: `ERASE` answers what `checkErase` does, and that looks at the range last. -/
theorem eraseChecksComeFirst : Obligations.EraseChecksComeFirst := by
  intro s addr size h
  exact ⟨fun hpre => erase_rejects h (checkErase_precond hpre), fun hini hz hle ho =>
    erase_rejects h ((checkErase_eq_checkAccess hle).trans (checkAccess_outOfRange hini hz ho))⟩

/-! ### A failed transport call -/

/-- A bare command's place is no request's (log 17). -/
theorem siteFailed_request {site : Site} {stage : Stage} (h : PointInv s op (.command site stage)) (hop : op ≠ .command)
    (u : State) : siteFailed u site = u.respond .errTransport := by
  cases site with
  | bare i => exact absurd (by cases stage <;> exact h.1) hop
  | _ => rfl

/-- Only the clock's points call the clock (R11, R134). -/
theorem pointCall_not_now {p : Point} {call : Call} (hc : pointCall s op p = some call) (hr : p ≠ .reference)
    (hs : p ≠ .sample) : call ≠ .now := by
  cases p with
  | transportInit => cases hc; nofun
  | reference => exact absurd rfl hr
  | sample => exact absurd rfl hs
  | command site stage =>
    cases stage with
    | frame =>
      obtain ⟨i, -, hi⟩ := Option.bind_eq_some_iff.1 hc
      exact frameCall_not_now hi
    | data =>
      obtain ⟨i, -, hi⟩ := Option.bind_eq_some_iff.1 hc
      exact dataCall_not_now hi

/-- Settles O14: `TransportInit` and every command of a request end the operation when their call fails. -/
theorem transportErrorAborts : Obligations.TransportErrorAborts := by
  intro s op p h hp hop hr hs hx
  have hpi := h.pointInv hp
  have hf : s.faulted = false := Bool.eq_false_iff.2 fun hf => by cases hp.symm.trans (h.faulted_iff.1 hf)
  obtain ⟨call, hc⟩ := pointCall_some hpi
  have hans : s.answer call = .error := State.answer_error hx (pointCall_not_now hc hr hs)
  have hpoll := perform_polled hans
  refine ⟨(s.perform call).respond .errTransport, call, ?_, hc, hpoll.responded hf _, rfl, hpoll.transcript⟩
  cases p with
  | transportInit => rw [State.interact_answered hp hc (by rw [hx]; nofun), hans]; rfl
  | reference => exact absurd rfl hr
  | sample => exact absurd rfl hs
  | command site stage =>
    rw [interact_command_error hp hc (pointCall_not_now hc hr hs) hx, siteFailed_request hpi hop]

end Sys2Proof.Machine
end

section
/-! Proofs about transactions (43_transactions.md), second part: `INIT` and `DEINIT` (O33 to O35), `SET_PROT` (O36, O37)
and `READ` (O38, O39), each run call by call from its acceptance to its response. -/

namespace Sys2Proof.Machine

variable {s t u v : State} {i j : Instr} {op : Op} {p : Point} {site : Site} {x y z w : Draw} {rest rest' : List Draw}
  {lines lines' : List Interaction} {f : List Byte} {cs : CsMode} {call : Call} {a : Answer} {b : Byte} {k : BitVec 2}
  {flag : Bool} {r : Resp} {m n : Nat} {addr size : Word} {l : Level}

/-! ### A request run to its response -/

/-- `n` answered interactions lead from `s` to `t`: `lines` are what they add to the transcript, `rest` the choices they
leave (R6). -/
structure Runs (n : Nat) (s t : State) (lines : List Interaction) (rest : List Draw) : Prop where
  steps : Steps n s t
  polled : Polled s t lines rest

theorem Runs.trans (h : Runs m s u lines rest) (k : Runs n u t lines' rest') :
    Runs (m + n) s t (lines ++ lines') rest' :=
  ⟨h.steps.trans k.steps, h.polled.trans k.polled⟩

/-- The request `i`, run from `s`, ends in `t` with the response `r` and the flag `flag`: `lines` are what it adds to
the transcript, `rest` the choices it leaves (R17, R131). -/
structure Concludes (i : Instr) (s t : State) (r : Resp) (flag : Bool) (lines : List Interaction) (rest : List Draw) :
    Prop where
  exec : exec i s = .next t
  responded : Responded s t r
  initialized : t.initialized = flag
  draws : t.draws = rest
  transcript : t.transcript = s.transcript ++ lines

/-- The response `r` at `v`, the flag set to `flag` with it (R14, R17). -/
def State.conclude (v : State) (flag : Bool) (r : Resp) : State := { v with initialized := flag }.respondWith r

/-- A run whose interactions lead to the request's response is the request's. -/
theorem Concludes.of_steps (h : Ready s) (he : Machine.exec i s = .next u.runOperation) (ha : Accepted s u)
    (htr : u.transcript = s.transcript) (hn : n ≤ operationFuel) (hs : Steps n u (v.conclude flag r))
    (hp : Polled u v lines rest) : Concludes i s (v.conclude flag r) r flag lines rest := by
  have hf : v.faulted = false := hp.faulted.trans (ha.faulted.trans h.healthy)
  have hidle : (v.conclude flag r).phase = .idle := if_neg (by simp [hf])
  exact ⟨he.trans (congrArg _ (hs.runOperation (by simp [hidle]) hn)),
    ⟨hidle, rfl, rfl, rfl, hf, hp.waiting, hp.cfg.trans ha.cfg, hp.host.trans ha.host⟩, rfl, hp.draws,
    hp.transcript.trans (by rw [htr])⟩

/-- A request that ends without moving the flag (R14). -/
theorem Concludes.of_respond (h : Ready s) (he : Machine.exec i s = .next u.runOperation) (ha : Accepted s u)
    (htr : u.transcript = s.transcript) (hn : n ≤ operationFuel) (hs : Steps n u (v.respondWith r))
    (hp : Polled u v lines rest) : Concludes i s (v.respondWith r) r s.initialized lines rest := by
  have hc : Concludes i s (v.respondWith r) r v.initialized lines rest :=
    Concludes.of_steps (flag := v.initialized) h he ha htr hn hs hp
  rwa [hp.initialized.trans ha.initialized] at hc

/-! ### One call, and the point after it -/

/-- The call is answered, and the point `p` is next. -/
def State.callThen (s : State) (call : Call) (op : Op) (p : Point) : State := (s.perform call).goto op p

@[simp] theorem State.callThen_cfg (s : State) (call : Call) (op : Op) (p : Point) :
    (s.callThen call op p).cfg = s.cfg := rfl

theorem callThen_polled (hdr : s.draws = x :: rest) (ha : s.answer call = a) :
    Polled s (s.callThen call op p) [⟨call, a⟩] rest :=
  { perform_polled ha with draws := congrArg List.tail hdr }

/-- An answered command without a data phase, computed (R60). -/
theorem interact_single_ok (hp : s.phase = .busy op (.command site .frame)) (hj : siteCommand s op site = some j)
    (hf : frameCall s.cfg j = some (.transmit f cs)) (hd : dataCall j = none) (hx : s.draw.reply = .ok) :
    s.interact = siteDone (s.perform (.transmit f cs)) op [] site := by
  have hj' : siteCommand (s.perform (.transmit f cs)) op site = some j := (siteCommand_congr rfl rfl rfl _ _).trans hj
  rw [State.interact_answered (call := .transmit f cs) hp (by simp [pointCall, hj, hf]) (by rw [hx]; nofun),
    State.answer_transmit hx]
  simp [advance, hj', hd]

/-- An answered WREN or WRDI leads on to the next point. -/
theorem latch_runs (hp : s.phase = .busy op (.command site .frame)) (hj : siteCommand s op site = some j)
    (hf : frameCall s.cfg j = some (.transmit f cs)) (hd : dataCall j = none) (hdr : s.draws = x :: rest) (hx : Answers x)
    (ht : ∀ v, siteDone v op [] site = some (v.goto op p)) :
    Runs 1 s (s.callThen (.transmit f cs) op p) [txOk f cs] rest := by
  have hsx : s.draw.reply = .ok := (State.draw_cons hdr).symm ▸ hx
  exact ⟨.step ((interact_single_ok hp hj hf hd hsx).trans (ht _)) rfl (.refl _),
    callThen_polled hdr (State.answer_transmit hsx)⟩

theorem Polled.goto (h : Polled s t lines rest) : Polled s (t.goto op p) lines rest := { h with }

/-- A status read answered, and the point after it (R86). -/
theorem status_runs (hp : s.phase = .busy op (.command site .frame)) (hj : siteCommand s op site = some .rdsr)
    (hdr : s.draws = x :: y :: rest) (hx : Answers x) (hy : Receives [b] y)
    (ht : siteDone (s.readStatus op site b) op [b] site = some ((s.readStatus op site b).goto op p)) :
    Runs 2 s ((s.readStatus op site b).goto op p) (statusRead s.cfg b) rest :=
  ⟨readStatus_steps hp hj hdr hx hy ht, (readStatus_polled hdr hx hy).goto⟩

/-! ### The device's own answers, no cycle running -/

/-- An answered WREN sets the latch, and no more (R52). -/
theorem wren_idle (hl : configLegal s.cfg = true) (hc : s.dev.cycle = none) (hx : Faithful s.draw) :
    SameCell { s.dev with wel := true } (s.perform (.transmit [s.cfg.opcWren] .both)).dev := by
  obtain ⟨hr, -, hwp⟩ := hx
  have hobeyed := (Device.interact_single (k := s.drawn) (x := s.draw) (d := s.dev) (i := .wren) ⟨hl, rfl, rfl, rfl⟩ rfl
    rfl).answered (by rw [hr]; nofun)
  have hlatch : s.dev.setLatch s.draw true = { s.dev with wel := true } := by simp [Device.setLatch, Device.wip, hc]
  rwa [Device.passTime_of_none hwp hc, Device.obey, hlatch] at hobeyed

/-- A status read has been answered with the byte `b`, the device's own: block and device are as they were but for it.
-/
structure StatusShown (s v : State) (b : Byte) : Prop where
  cfg : v.cfg = s.cfg
  latch : v.latch = s.latch
  waiting : v.waiting = false
  draws : v.draws = s.draws.tail.tail
  sr : v.work.sr = some b
  dev : SameCell s.dev v.dev
  wel : wel b = s.dev.wel
  wpen : wpen b = s.dev.wpen

/-- A status read with no cycle running, answered by the device itself (R53). -/
theorem ownStatus_steps (hl : configLegal s.cfg = true) (hp : s.phase = .busy op (.command site .frame))
    (hj : siteCommand s op site = some .rdsr) (hdr : s.draws = x :: y :: rest) (hx : Faithful x) (hy : Faithful y)
    (hc : s.dev.cycle = none) :
    ∃ v b, StatusShown s v b ∧ ∀ t, siteDone v op [b] site = some t → Steps 2 s t := by
  obtain ⟨hxr, -, hxw⟩ := hx
  obtain ⟨hyr, hyx, hyw⟩ := hy
  have hstill : s.dev.passTime s.cfg s.draw = s.dev := Device.passTime_of_none (by rw [State.draw_cons hdr, hxw]) hc
  obtain ⟨u, v, l, hu, huw, huv, hv⟩ := receive_steps hp hj ⟨hl, rfl, rfl, rfl⟩ rfl hdr hxr hyr hyx hyw (by rw [hstill, hc])
  obtain ⟨e, k, hse, hcs, hdec, hl⟩ := hv.own
  have hdev := hv.dev
  rw [hstill] at hse hdev
  have hown : l = [e.status] := by
    rw [hl, fit_of_length] <;> simp [Device.output, assertBefore, hcs, hdec]
  obtain ⟨-, hwel, -, hwpen, -⟩ := statusByteShowsTheFields e
  subst hown
  exact ⟨v.takeStatus .rdsr [e.status], e.status,
    ⟨hv.cfg, hv.latch, hv.waiting, hv.draws, rfl, hdev, hwel.trans hse.wel, hwpen.trans hse.wpen⟩,
    fun t ht => .step hu huw (.step (huv.trans ht) ((siteDone_same ht).waiting.trans hv.waiting) (.refl t))⟩

/-- A request other than `WRITE` and `ERASE` that ends in a response leaves the block ready (R15, R131). -/
theorem responded_of_exec (h : Ready s) (hi : isRequest i = true) (hw : ∀ a n d, i ≠ .write a n d)
    (he : ∀ a n, i ≠ .erase a n) (hx : exec i s = .next (v.conclude flag r)) (hv : v.waiting = false) :
    Responded s (v.conclude flag r) r := by
  obtain ⟨hcfg, hhost, -, hf, -⟩ := requestsKeepTheRest i s _ hi hx
  have hf : v.faulted = false := (hf hw he).trans h.healthy
  exact ⟨if_neg (by simp [hf]), rfl, rfl, rfl, hf, hv, hcfg, hhost⟩

/-! ### `INIT` and `DEINIT` -/

/-- An accepted `INIT` (R107, R112). -/
def initStart (s : State) : State := (s.accept .init).goto .init .transportInit

theorem exec_init_eq (h : Ready s) : exec .init s = .next (initStart s).runOperation := by
  rw [exec, execInit, h.beginRequest_eq]
  rfl

/-- `INIT` between its WREN and the status read. -/
def initLatched (s : State) : State :=
  ((initStart s).callThen .transportInit .init (.command .initWren .frame)).callThen (.transmit [s.cfg.opcWren] .both) .init
    (.command .initStatus .frame)

theorem initLatched_cfg (s : State) : (initLatched s).cfg = s.cfg := by simp [initLatched, initStart]

theorem State.answer_transportInit (hr : s.draw.reply = .ok) : s.answer .transportInit = .ok [] := by
  unfold State.answer Device.interact
  rw [hr]

/-- `INIT` comes to its status read (R112). -/
theorem initLatched_runs (hdr : s.draws = x :: y :: rest) (hx : Answers x) (hy : Answers y) :
    Runs 2 (initStart s) (initLatched s) [⟨.transportInit, .ok []⟩, txOk [s.cfg.opcWren] .both] rest := by
  have hr : (initStart s).draw.reply = .ok := (State.draw_cons (s := initStart s) hdr).symm ▸ hx
  have hans := State.answer_transportInit hr
  have hint : (initStart s).interact
      = some ((initStart s).callThen .transportInit .init (.command .initWren .frame)) := by
    rw [State.interact_answered (call := .transportInit) rfl rfl (by rw [hr]; nofun), hans]
    rfl
  have hfirst : Runs 1 (initStart s) _ _ (y :: rest) := ⟨.step hint rfl (.refl _), callThen_polled hdr hans⟩
  exact hfirst.trans (latch_runs (j := .wren) rfl rfl rfl rfl hfirst.polled.draws hy fun _ => rfl)

/-- WEL read back decides `INIT` (R112). -/
theorem siteDone_initStatus {l : List Byte} (hsr : v.work.sr = some b) (hini : v.initialized = flag) :
    siteDone v op l .initStatus
      = some (v.conclude (if wel b then true else flag) { code := some (if wel b then .ok else .errVerify) }) := by
  subst hini
  cases hb : wel b <;> simp [siteDone, hsr, hb, State.conclude, State.respond]

/-- WEL read back decides `DEINIT` (R113). -/
theorem siteDone_deinitStatus {l : List Byte} (hsr : v.work.sr = some b) (hini : v.initialized = flag) :
    siteDone v op l .deinitStatus
      = some (v.conclude (if wel b then flag else false) { code := some (if wel b then .errVerify else .ok) }) := by
  subst hini
  cases hb : wel b <;> simp [siteDone, hsr, hb, State.conclude, State.respond]

theorem init_concludes (h : Ready s) (hdr : s.draws = x :: y :: z :: w :: rest) (hx : Answers x) (hy : Answers y)
    (hz : Answers z) (hw : Receives [b] w) :
    ∃ t, Concludes .init s t { code := some (if wel b then .ok else .errVerify) } (if wel b then true else s.initialized)
      ([⟨.transportInit, .ok []⟩, txOk [s.cfg.opcWren] .both] ++ statusRead s.cfg b) rest := by
  obtain ⟨hopen, hpoll⟩ := initLatched_runs hdr hx hy
  have hread := readStatus_polled (op := .init) (site := .initStatus) hpoll.draws hz hw
  have hend := readStatus_steps rfl rfl hpoll.draws hz hw
    (siteDone_initStatus (op := .init) rfl (hread.initialized.trans hpoll.initialized))
  rw [initLatched_cfg] at hread
  exact ⟨_, .of_steps h (exec_init_eq h) {} rfl (by decide) (hopen.trans hend) (hpoll.trans hread)⟩

/-- Settles O33: `INIT` comes to its status read, and the byte received decides. -/
theorem initSetsTheFlagWhenWelReadsBack : Obligations.InitSetsTheFlagWhenWelReadsBack := by
  intro s x y z w rest b h hdr hx hy hz hw
  obtain ⟨t, hc⟩ := init_concludes h hdr hx hy hz hw
  have hresp := hc.responded
  have hini := hc.initialized
  refine ⟨t, hc.exec, fun hb => ?_, fun hb => ?_, hc.draws, by rw [hc.transcript, List.append_assoc]⟩ <;>
    rw [hb] at hresp hini <;> exact ⟨hresp, hini⟩

/-- The device's answer to `TransportInit` touches nothing (R112). -/
theorem transportInit_idle (hc : s.dev.cycle = none) (hx : Faithful s.draw) :
    (s.perform .transportInit).dev = s.dev := by
  obtain ⟨hr, -, hwp⟩ := hx
  rw [State.perform_dev, Device.interact, hr]
  exact Device.passTime_of_none hwp hc

/-- `INIT` sets the latch of a device with no cycle running, and no more (R52). -/
theorem initLatched_dev (hl : configLegal s.cfg = true) (hc : s.dev.cycle = none) (hdr : s.draws = x :: y :: rest)
    (hx : Faithful x) (hy : Faithful y) : SameCell { s.dev with wel := true } (initLatched s).dev := by
  have hinit := transportInit_idle (s := initStart s) hc ((State.draw_cons (s := initStart s) hdr).symm ▸ hx)
  have hdraw := State.draw_cons (s := (initStart s).callThen .transportInit .init (.command .initWren .frame))
    (congrArg List.tail hdr)
  have hwren := wren_idle (s := (initStart s).callThen .transportInit .init (.command .initWren .frame)) hl
    ((congrArg Device.cycle hinit).trans hc) (hdraw.symm ▸ hy)
  exact hinit ▸ hwren

/-- Settles O34: the WREN of `INIT` sets the latch, and the device's own status byte shows it. -/
theorem initSucceedsOnAnIdleDevice : Obligations.InitSucceedsOnAnIdleDevice := by
  intro s x y z w rest h hc hdr hx hy hz hw
  have hl : configLegal (initLatched s).cfg = true := (initLatched_cfg s).symm ▸ h.legal
  obtain ⟨hopen, hpoll⟩ := initLatched_runs hdr hx.1 hy.1
  have hdev := initLatched_dev h.legal hc hdr hx hy
  obtain ⟨v, b, hv, hend⟩ := ownStatus_steps (s := initLatched s) (op := .init) (site := .initStatus) hl rfl rfl
    hpoll.draws hz hw (hdev.cycle.trans hc)
  have hb : wel b = true := hv.wel.trans hdev.wel
  have hdone := siteDone_initStatus (op := .init) (l := [b]) hv.sr rfl
  rw [hb] at hdone
  have hex := (exec_init_eq h).trans (congrArg _ ((hopen.trans (hend _ hdone)).runOperation
    (respondWith_quiet _ _).not_busy (by decide)))
  exact ⟨_, hex, responded_of_exec h rfl (by simp) (by simp) hex hv.waiting, rfl, hv.dev.wel.trans hdev.wel⟩

/-- An accepted `DEINIT` (R107, R113). -/
def deinitStart (s : State) : State := (s.accept .deinit).goto .deinit (.command .deinitWrdi .frame)

theorem exec_deinit_eq (h : Ready s) : exec .deinit s = .next (deinitStart s).runOperation := by
  rw [exec, execDeinit, h.beginRequest_eq]
  rfl

theorem deinit_concludes (h : Ready s) (hdr : s.draws = x :: y :: z :: rest) (hx : Answers x) (hy : Answers y)
    (hz : Receives [b] z) :
    ∃ t, Concludes .deinit s t { code := some (if wel b then .errVerify else .ok) } (if wel b then s.initialized else false)
      ([txOk [s.cfg.opcWrdi] .both] ++ statusRead s.cfg b) rest := by
  obtain ⟨hopen, hpoll⟩ := latch_runs (s := deinitStart s) (op := .deinit) (site := .deinitWrdi) (j := .wrdi)
    (p := .command .deinitStatus .frame) rfl rfl rfl rfl hdr hx fun _ => rfl
  have hread := readStatus_polled (op := .deinit) (site := .deinitStatus) hpoll.draws hy hz
  have hend := readStatus_steps rfl rfl hpoll.draws hy hz
    (siteDone_deinitStatus (op := .deinit) rfl (hread.initialized.trans hpoll.initialized))
  exact ⟨_, .of_steps h (exec_deinit_eq h) {} rfl (by decide) (hopen.trans hend) (hpoll.trans hread)⟩

/-- Settles O35: `DEINIT` comes to its status read, and the byte received decides. -/
theorem deinitClearsTheFlagWhenWelReadsBack : Obligations.DeinitClearsTheFlagWhenWelReadsBack := by
  intro s x y z rest b h hdr hx hy hz
  obtain ⟨t, hc⟩ := deinit_concludes h hdr hx hy hz
  have hresp := hc.responded
  have hini := hc.initialized
  refine ⟨t, hc.exec, fun hb => ?_, fun hb => ?_, hc.draws, by rw [hc.transcript, List.append_assoc]⟩ <;>
    rw [hb] at hresp hini <;> exact ⟨hresp, hini⟩

/-! ### `SET_PROT` -/

/-- An accepted `SET_PROT`, its status read next (R118). -/
def protStart (s : State) (l : Level) : State := (setProtAccepted s l).goto .setProt (.command .protStatus .frame)

theorem exec_setProt_eq (h : Ready s) (hini : s.initialized = true) (l : Level) :
    exec (.setProt l) s = .next (protStart s l).runOperation := by
  rw [exec, execSetProt, h.beginRequest_eq]
  exact congrArg _ (if_pos hini)

/-- `SET_PROT` between its WREN and its WRSR. -/
def State.protLatched (s : State) : State :=
  s.callThen (.transmit [s.cfg.opcWren] .both) .setProt (.command .protWrite .frame)

/-- `SET_PROT` with its WREN and its WRSR sent, the level `k` in the place of the status byte's (R28, R118). -/
def State.protWritten (s : State) (b : Byte) (k : BitVec 2) : State :=
  s.protLatched.perform (.transmit [s.cfg.opcWrsr, withBp b k] .both)

/-- `SET_PROT` ends with its WREN and its WRSR (R118). -/
theorem protWritten_steps (hp : s.phase = .busy .setProt (.command .protWren .frame)) (hsr : s.work.sr = some b)
    (hk : s.latch.level = some k) (hdr : s.draws = x :: y :: rest) (hx : Answers x) (hy : Answers y) :
    Steps 2 s ((s.protWritten b k).respond .ok)
      ∧ Polled s (s.protWritten b k) [txOk [s.cfg.opcWren] .both, txOk [s.cfg.opcWrsr, withBp b k] .both] rest := by
  obtain ⟨hwren, hpoll⟩ := latch_runs (j := .wren) (p := .command .protWrite .frame) hp rfl rfl rfl hdr hx fun _ => rfl
  have hy : s.protLatched.draw.reply = .ok := (State.draw_cons (s := s.protLatched) hpoll.draws).symm ▸ hy
  have hj : siteCommand s.protLatched .setProt .protWrite = some (.wrsr (withBp b k)) := by
    simp [siteCommand, State.protLatched, State.callThen, hsr, hk]
  have hwrsr : s.protLatched.interact = some ((s.protWritten b k).respond .ok) := interact_single_ok rfl hj rfl rfl hy
  have hlast : Polled s.protLatched (s.protWritten b k) [txOk [s.cfg.opcWrsr, withBp b k] .both] rest :=
    { perform_polled (State.answer_transmit hy) with draws := congrArg List.tail hpoll.draws }
  exact ⟨hwren.trans (.step hwrsr rfl (.refl _)), hpoll.trans hlast⟩

/-- Settles O36: the byte received is written back by the two calls after the status read. -/
theorem setProtWritesTheLevel : Obligations.SetProtWritesTheLevel := by
  intro s l x y z w rest b h hini hdr hx hy hz hw
  obtain ⟨hread, hpoll⟩ := status_runs (s := protStart s l) (op := .setProt) (site := .protStatus)
    (p := .command .protWren .frame) rfl rfl hdr hx hy rfl
  obtain ⟨hwrite, hpoll'⟩ := protWritten_steps (b := b) (k := levelCode l) rfl rfl (by rw [hpoll.latch]; rfl) hpoll.draws
    hz hw
  have hc := Concludes.of_respond h (exec_setProt_eq h hini l) {} rfl (by decide) (hread.trans hwrite) (hpoll.trans hpoll')
  exact ⟨_, hc.exec, hc.responded, hc.initialized.trans hini, hc.draws, by rw [hc.transcript, ← List.append_assoc]; rfl⟩

/-- With no cycle running and the status register not locked, the WREN and the WRSR of `SET_PROT` leave a status-write
cycle whose end commits the level, and nothing else but WPEN as read (R54, R57). -/
theorem protWritten_dev (hl : configLegal s.cfg = true) (hc : s.dev.cycle = none) (hdr : s.draws = x :: y :: rest)
    (hx : Faithful x) (hy : Faithful y) (hlock : (s.dev.wpen && s.dev.wp && y.wrsrBlocked) = false) :
    (s.protWritten b k).dev.wip = true ∧ ((s.protWritten b k).dev.endCycle s.cfg).bp = k
      ∧ ((s.protWritten b k).dev.endCycle s.cfg).wpen = wpen b
      ∧ ((s.protWritten b k).dev.endCycle s.cfg).mem = s.dev.mem := by
  have hwren : SameCell { s.dev with wel := true } s.protLatched.dev := wren_idle hl hc ((State.draw_cons hdr).symm ▸ hx)
  have hdraw : s.protLatched.draw = y := State.draw_cons (congrArg List.tail hdr)
  have hidle : s.protLatched.dev.cycle = none := hwren.cycle.trans hc
  have hobeyed := (Device.interact_single (c := s.cfg) (k := s.protLatched.drawn) (x := s.protLatched.draw)
    (d := s.protLatched.dev) (i := .wrsr (withBp b k)) ⟨hl, rfl, rfl, rfl⟩ rfl rfl).answered (by rw [hdraw, hy.1]; nofun)
  rw [hdraw, Device.passTime_of_none hy.2.2 hidle] at hobeyed
  have hacc : s.protLatched.dev.acceptsStatusWrite y = true := by
    refine acceptsStatusWrite_iff.2 ⟨.inl ?_, hwren.wel, ?_⟩
    · rw [Device.wip, hidle]; rfl
    · rw [hwren.wpen, hwren.wp]; exact hlock
  obtain ⟨hwip, hbp, hwpen, -, hmem⟩ := Device.startStatusWrite_endCycle (c := s.cfg) (v := withBp b k) hacc
  obtain ⟨-, -, -, -, -, hbits, -, -, hkeep, -⟩ := withBpReplacesOnlyBp b k
  have hend := hobeyed.endCycle (c := s.cfg)
  have hdev : (s.protWritten b k).dev = (s.protLatched.dev.interact s.cfg s.protLatched.drawn y
      (.transmit [s.cfg.opcWrsr, withBp b k] .both)).2 := by rw [← hdraw]; rfl
  rw [hdev]
  refine ⟨hobeyed.wip.trans hwip, hend.bp.trans (hbp.trans hbits), hend.wpen.trans (hwpen.trans hkeep),
    hend.mem.trans (hmem.trans ?_)⟩
  rw [Device.endCycle_of_none hidle]
  exact hwren.mem

/-- Settles O37: the device's own status byte is written back with the level in it, and the WRSR is accepted. -/
theorem setProtReachesTheDevice : Obligations.SetProtReachesTheDevice := by
  intro s l x y z w rest h hini hc hdr hx hy hz hw hlock
  obtain ⟨v, b, hv, hnext⟩ := ownStatus_steps (s := protStart s l) (op := .setProt) (site := .protStatus) h.legal rfl rfl
    hdr hx hy hc
  have hdraws : v.draws = z :: w :: rest := hv.draws.trans (congrArg (fun l => l.tail.tail) hdr)
  obtain ⟨hwrite, -⟩ := protWritten_steps (s := v.goto .setProt (.command .protWren .frame)) (k := levelCode l) rfl hv.sr
    (congrArg Latch.level hv.latch) hdraws hz.1 hw.1
  obtain ⟨hwip, hbp, hwpen, hmem⟩ := protWritten_dev (s := v.goto .setProt (.command .protWren .frame)) (b := b)
    (k := levelCode l) (hv.cfg ▸ h.legal) (hv.dev.cycle.trans hc) hdraws hz hw (by
      rw [State.goto_dev, hv.dev.wpen, hv.dev.wp]; exact hlock)
  have hex := (exec_setProt_eq h hini l).trans (congrArg _ (((hnext _ rfl).trans hwrite).runOperation
    (respondWith_quiet _ _).not_busy (by decide)))
  have hcfg : v.cfg = s.cfg := hv.cfg
  rw [State.goto_cfg, hcfg] at hbp hwpen hmem
  exact ⟨_, hex, rfl, hwip, hbp, hwpen.trans hv.wpen, hmem.trans hv.dev.mem⟩

/-! ### `READ` -/

/-- Where a `READ` that passes its checks begins (R109, R116). -/
theorem exec_read_passes (h : Ready s) (hini : s.initialized = true) (hz : size ≠ 0)
    (ho : addr.toNat + size.toNat - 1 ≤ capacity s.cfg - 1) :
    exec (.read addr size) s = .next (readStart s addr size).runOperation :=
  exec_read_eq h.legal (.inl h.idle) h.healthy hini hz (decide_eq_false (Nat.not_lt.2 ho))

theorem frameSent_polled (hdr : s.draws = x :: rest) (hx : Answers x) :
    Polled s (frameSent s f op site) [txOk f .start] rest :=
  callThen_polled hdr (State.answer_transmit ((State.draw_cons hdr).symm ▸ hx))

theorem sendRead_ne_rdsr (c : Config) (a : Word) (m : Nat) : sendRead c a m ≠ .rdsr := by
  unfold sendRead
  split <;> [skip; split] <;> nofun

/-- WIP decides a `READ` (R116, R126). -/
theorem siteDone_readStatus {l : List Byte} (hsr : v.work.sr = some b) :
    (wip b = true → siteDone v op l .readStatus = some (v.respond .errBusy))
      ∧ (wip b = false → siteDone v op l .readStatus = some (v.goto op (.command .readData .frame))) := by
  constructor <;> intro hb <;> simp [siteDone, hsr, hb]

/-- A `READ` with the bytes of its range received. -/
def State.rangeRead (s : State) (addr size : Word) : State :=
  (frameSent s (assemble s.cfg s.cfg.opcRead addr) .read .readData).perform (.receive size.toNat .stop)

/-- The READ command of the latched range ends a `READ` (R116). -/
theorem rangeRead_steps {bytes : List Byte} (hp : s.phase = .busy .read (.command .readData .frame))
    (ha : s.latch.addr = some addr) (hs : s.latch.size = some size) (hdr : s.draws = x :: y :: rest) (hx : Answers x)
    (hy : Receives bytes y) (hlen : bytes.length = size.toNat) :
    Steps 2 s ((s.rangeRead addr size).respondWith { code := some .ok, data := some bytes })
      ∧ Polled s (s.rangeRead addr size) [txOk (assemble s.cfg s.cfg.opcRead addr) .start, rxOk bytes .stop] rest := by
  have hj : siteCommand s .read .readData = some (sendRead s.cfg addr size.toNat) := by simp [siteCommand, ha, hs]
  have hd := dataCall_sendRead s.cfg addr size.toNat
  have hframe := interact_frame_ok hp hj (frameCall_sendRead ..) (by rw [hd]; rfl) ((State.draw_cons hdr).symm ▸ hx)
  have hpoll : Polled s (frameSent s (assemble s.cfg s.cfg.opcRead addr) .read .readData) _ _ := frameSent_polled hdr hx
  have hy : Receives bytes (frameSent s (assemble s.cfg s.cfg.opcRead addr) .read .readData).draw :=
    (frameSent_draw hdr).symm ▸ hy
  have hans := State.answer_receive hy
  rw [hlen] at hans
  have hdata := interact_data_ok (s := frameSent s (assemble s.cfg s.cfg.opcRead addr) .read .readData) rfl
    ((siteCommand_congr rfl rfl rfl _ _).trans hj) hd hy.1 hans
  rw [State.takeStatus_other (sendRead_ne_rdsr _ _ _)] at hdata
  refine ⟨.step hframe rfl (.step hdata rfl (.refl _)), hpoll.trans ?_⟩
  rw [rxOk, hlen]
  exact { perform_polled hans with draws := congrArg List.tail hpoll.draws }

/-- Settles O38: after the status read, the READ command of the range is answered with its bytes. -/
theorem readReceivesTheRange : Obligations.ReadReceivesTheRange := by
  intro s addr size x y z w rest b bytes h hini hz ho hdr hx hy hb hza hw hlen
  obtain ⟨hread, hpoll⟩ := status_runs (s := readStart s addr size) rfl rfl hdr hx hy ((siteDone_readStatus rfl).2 hb)
  obtain ⟨hrange, hpoll'⟩ := rangeRead_steps (addr := addr) (size := size) rfl (by rw [hpoll.latch]; rfl)
    (by rw [hpoll.latch]; rfl) hpoll.draws hza hw hlen
  have hc := Concludes.of_respond h (exec_read_passes h hini hz ho) {} rfl (by decide) (hread.trans hrange)
    (hpoll.trans hpoll')
  exact ⟨_, hc.exec, hc.responded, hc.initialized.trans hini, hc.draws, by
    rw [hc.transcript, hpoll.cfg, ← List.append_assoc]
    rfl⟩

/-- Settles O39: WIP read as set ends the `READ`. -/
theorem readWhileBusyIsRejected : Obligations.ReadWhileBusyIsRejected := by
  intro s addr size x y rest b h hini hz ho hdr hx hy hb
  have hread := readStatus_polled (s := readStart s addr size) (op := .read) (site := .readStatus) hdr hx hy
  have hend := readStatus_steps (s := readStart s addr size) rfl rfl hdr hx hy ((siteDone_readStatus rfl).1 hb)
  have hc := Concludes.of_respond h (exec_read_passes h hini hz ho) {} rfl (by decide) hend hread
  exact ⟨_, hc.exec, hc.responded, hc.initialized.trans hini, hc.draws, hc.transcript⟩

end Sys2Proof.Machine
end

section
/-! Proofs about transactions (43_transactions.md), third part: `WRITE` and `ERASE` with WIP clear at every wait (O40,
O41). Each piece of the range's cut at its page boundaries (`PageCut`) is one sub-transfer of five calls. -/

namespace Sys2Proof.Machine

variable {s t u v : State} {i : Instr} {op : Op} {x y z : Draw} {xs rest : List Draw} {b : Byte} {p data : List Byte}
  {P first A R : Nat} {a r o sectors k n addr size : Word} {l : List (Nat × Nat)}

/-! ### One sub-transfer -/

/-- The bytes of the sub-transfer of `n` bytes at `a`, of a range from `first` on (R115, R117). -/
def rangeBytes (c : Config) (op : Op) (data : List Byte) (first a n : Nat) : List Byte :=
  match op with
  | .erase => List.replicate n c.eraseValue
  | _ => (data.drop (a - first)).take n

/-- The registers of a sub-transfer in progress (R90): `n` bytes at `a`, the `k`-th of `sectors`, of a range from
`first` on. -/
structure InSubTransfer (s : State) (op : Op) (data : List Byte) (first : Nat) (a r o sectors k n : Word) : Prop where
  workAddr : s.work.workAddr = some a
  remaining : s.work.remaining = some r
  offset : s.work.offset = some o
  sectors : s.work.sectors = some sectors
  index : s.work.k = some k
  transfer : s.work.n = some n
  data : op ≠ .erase → s.latch.data = some data
  start : first + o.toNat = a.toNat
  length : n.toNat = transferSize s.cfg.pageSize a.toNat r.toNat
  fits : a.toNat + r.toNat < 2 ^ 32

/-- The monitor's registers are no part of it. -/
theorem InSubTransfer.congr (h : InSubTransfer s op data first a r o sectors k n) (hc : t.cfg = s.cfg)
    (hl : t.latch = s.latch) (hw : { t.work with sr := s.work.sr, mon := s.work.mon } = s.work) :
    InSubTransfer t op data first a r o sectors k n where
  workAddr := (congrArg Work.workAddr hw).trans h.workAddr
  remaining := (congrArg Work.remaining hw).trans h.remaining
  offset := (congrArg Work.offset hw).trans h.offset
  sectors := (congrArg Work.sectors hw).trans h.sectors
  index := (congrArg Work.k hw).trans h.index
  transfer := (congrArg Work.n hw).trans h.transfer
  data := fun hop => hl ▸ h.data hop
  start := h.start
  length := hc ▸ h.length
  fits := h.fits

/-- The command of a sub-transfer sends its bytes at its address (R115, R117). -/
theorem InSubTransfer.command (h : InSubTransfer s op data first a r o sectors k n) :
    siteCommand s op .subWrite = some (sendWrite s.cfg a (rangeBytes s.cfg op data first a.toNat n.toNat)) := by
  have hoff : a.toNat - first = o.toNat := by have := h.start; omega
  by_cases hop : op = .erase
  · subst hop
    simp [siteCommand, payload, rangeBytes, h.workAddr, h.transfer]
  · have hdata := h.data hop
    cases op with
    | erase => exact absurd rfl hop
    | _ => simp [siteCommand, payload, rangeBytes, h.workAddr, h.transfer, h.offset, hdata, hoff]

/-- A sub-transfer's frame and payload sent (R115). -/
def State.pageSent (s : State) (op : Op) (a : Word) (p : List Byte) : State :=
  (frameSent s (assemble s.cfg s.cfg.opcWrite a) op .subWrite).perform (.transmit p .stop)

theorem State.pageSent_work (s : State) (op : Op) (a : Word) (p : List Byte) : (s.pageSent op a p).work = s.work := by
  simp [State.pageSent, frameSent]

/-- The frame and the payload of a sub-transfer (R115). -/
theorem pageSent_steps (hp : s.phase = .busy op (.command .subWrite .frame))
    (hj : siteCommand s op .subWrite = some (sendWrite s.cfg a p)) (hdr : s.draws = x :: y :: rest) (hx : Answers x)
    (hy : Answers y) :
    (∀ t, (s.pageSent op a p).subNext op = some t → Steps 2 s t)
      ∧ Polled s (s.pageSent op a p) [txOk (assemble s.cfg s.cfg.opcWrite a) .start, txOk p .stop] rest := by
  have hd := dataCall_sendWrite s.cfg a p
  have hframe := interact_frame_ok hp hj (frameCall_sendWrite ..) (by rw [hd]; rfl) ((State.draw_cons hdr).symm ▸ hx)
  have hsent : Polled s (frameSent s (assemble s.cfg s.cfg.opcWrite a) op .subWrite) _ _ := frameSent_polled hdr hx
  have hy : (frameSent s (assemble s.cfg s.cfg.opcWrite a) op .subWrite).draw.reply = .ok :=
    (State.draw_cons hsent.draws).symm ▸ hy
  have hdata := interact_data_ok (s := frameSent s (assemble s.cfg s.cfg.opcWrite a) op .subWrite) rfl
    ((siteCommand_congr rfl rfl rfl _ _).trans hj) hd hy (State.answer_transmit hy)
  rw [State.takeStatus_other (sendWrite_shape ..).2.2] at hdata
  have hlast := perform_polled (State.answer_transmit (f := p) (cs := .stop) hy)
  rw [hsent.draws] at hlast
  exact ⟨fun t ht => .step hframe rfl (.step (hdata.trans ht) (subNext_same ht).waiting (.refl t)), hsent.trans hlast⟩

/-- The monitor's status read with WIP clear and the WREN after it (R97, R115). -/
def State.waited (s : State) (op : Op) (b : Byte) : State :=
  ((s.readStatus op .monEntry b).monitorDone op).callThen (.transmit [s.cfg.opcWren] .both) op (.command .subWrite .frame)

theorem State.waited_work (s : State) (op : Op) (b : Byte) :
    (s.waited op b).work = { s.work with sr := some b, mon := some .done } := by
  simp [State.waited, State.callThen, State.monitorDone, State.readStatus, State.takeByte, frameSent]

theorem Polled.monitorDone {lines : List Interaction} (h : Polled s t lines rest) :
    Polled s (t.monitorDone op) lines rest :=
  { h with }

/-- WIP clear at the wait of a sub-transfer, and its WREN (R97, R115). -/
theorem waited_runs (hp : s.phase = .busy op (.command .monEntry .frame)) (hdr : s.draws = x :: y :: z :: rest)
    (hx : Answers x) (hy : Receives [b] y) (hz : Answers z) (hb : wip b = false) :
    Runs 3 s (s.waited op b) (statusRead s.cfg b ++ [txOk [s.cfg.opcWren] .both]) rest := by
  have hread : Runs 2 s ((s.readStatus op .monEntry b).monitorDone op) (statusRead s.cfg b) (z :: rest) :=
    ⟨readStatus_steps hp rfl hdr hx hy ((monitorEntry_eq (b := b) rfl).trans (by rw [hb]; rfl)),
      (readStatus_polled hdr hx hy).monitorDone⟩
  have hf : frameCall ((s.readStatus op .monEntry b).monitorDone op).cfg .wren
      = some (.transmit [s.cfg.opcWren] .both) := by
    rw [hread.polled.cfg]
    rfl
  exact hread.trans (latch_runs (j := .wren) rfl rfl hf rfl hread.polled.draws hz fun _ => rfl)

/-- The five calls of a sub-transfer with WIP clear at its wait (R115). -/
theorem InSubTransfer.steps (h : InSubTransfer s op data first a r o sectors k n)
    (hp : s.phase = .busy op (.command .monEntry .frame)) (hdr : s.draws = xs ++ rest) (hx : ∀ x ∈ xs, Receives [b] x)
    (hlen : 5 ≤ xs.length) (hb : wip b = false) :
    ∃ v, InSubTransfer v op data first a r o sectors k n ∧ (∀ t, v.subNext op = some t → Steps 5 s t)
      ∧ Polled s v (subTransferLines s.cfg b a.toNat (rangeBytes s.cfg op data first a.toNat n.toNat))
        (xs.drop 5 ++ rest) := by
  obtain ⟨x₁, x₂, x₃, x₄, x₅, ys, rfl⟩ : ∃ x₁ x₂ x₃ x₄ x₅ ys, xs = x₁ :: x₂ :: x₃ :: x₄ :: x₅ :: ys := by
    match xs, hlen with
    | x₁ :: x₂ :: x₃ :: x₄ :: x₅ :: ys, _ => exact ⟨x₁, x₂, x₃, x₄, x₅, ys, rfl⟩
  obtain ⟨h₁, h₂, h₃, h₄, h₅, -⟩ := by simpa only [List.forall_mem_cons] using hx
  obtain ⟨hwait, hpoll⟩ := waited_runs hp hdr h₁.1 h₂ h₃.1 hb
  have hin : InSubTransfer (s.waited op b) op data first a r o sectors k n :=
    h.congr hpoll.cfg hpoll.latch (by rw [State.waited_work])
  obtain ⟨hsent, hpoll'⟩ := pageSent_steps (s := s.waited op b) rfl hin.command hpoll.draws h₄.1 h₅.1
  refine ⟨_, hin.congr hpoll'.cfg hpoll'.latch (by rw [State.pageSent_work]), fun t ht => hwait.trans (hsent t ht), ?_⟩
  have hlines : statusRead s.cfg b ++ [txOk [s.cfg.opcWren] .both]
      ++ [txOk (assemble (s.waited op b).cfg (s.waited op b).cfg.opcWrite a) .start,
        txOk (rangeBytes (s.waited op b).cfg op data first a.toNat n.toNat) .stop]
      = subTransferLines s.cfg b a.toNat (rangeBytes s.cfg op data first a.toNat n.toNat) := by
    rw [hpoll.cfg, subTransferLines, BitVec.ofNat_toNat, BitVec.setWidth_eq, List.append_assoc]
    rfl
  exact hlines ▸ hpoll.trans hpoll'

/-! ### The loop of sub-transfers -/

theorem transferSize_le (P a r : Nat) : transferSize P a r ≤ r := by
  unfold transferSize
  split <;> omega

/-- After the last sub-transfer the operation answers `OK` (R90, R115). -/
theorem InSubTransfer.next_last (h : InSubTransfer s op data first a r o sectors k n)
    (hk : k.toNat + 1 = sectors.toNat) : s.subNext op = some (s.respond .ok) := by
  simp only [State.subNext, h.workAddr, h.remaining, h.offset, h.transfer, h.index, h.sectors, bind, Option.bind_some, hk,
    lt_irrefl, if_false]
  rfl

/-- After any other, the next one waits, past the bytes sent (R90, R115). -/
theorem InSubTransfer.next_more (h : InSubTransfer s op data first a r o sectors k n)
    (hk : k.toNat + 1 < sectors.toNat) :
    ∃ w n', s.subNext op = some ({ s with work := w }.goto op (.command .monEntry .frame))
      ∧ InSubTransfer ({ s with work := w }.goto op (.command .monEntry .frame)) op data first (a + n) (r - n) (o + n)
        sectors (k + 1) n' := by
  have hnr : n.toNat ≤ r.toNat := h.length ▸ transferSize_le ..
  have hfits := h.fits
  have hstart := h.start
  have ha : (a + n).toNat = a.toNat + n.toNat := by bv_omega
  have hr : (r - n).toNat = r.toNat - n.toNat := by bv_omega
  have ho : (o + n).toNat = o.toNat + n.toNat := by bv_omega
  have hle := transferSize_le s.cfg.pageSize (a + n).toNat (r - n).toNat
  simp only [State.subNext, h.workAddr, h.remaining, h.offset, h.transfer, h.index, h.sectors, bind, Option.bind_some,
    if_pos hk]
  refine ⟨_, _, rfl, rfl, rfl, rfl, rfl, rfl, rfl, h.data, by omega, ?_, by omega⟩
  exact Nat.mod_eq_of_lt (Nat.lt_of_le_of_lt hle (r - n).isLt)

/-- A cut's first piece has the length of R89. -/
theorem PageCut.transferSize_eq {m : Nat} (h : PageCut P A R ((A, m) :: l)) : transferSize P A R = m := by
  unfold transferSize
  cases h with
  | last _ inPage => exact if_pos (by omega)
  | page _ more fills => rw [if_neg (by omega)]; omega

/-- What the sub-transfer of a piece adds to the transcript (R115). -/
def pieceLines (c : Config) (b : Byte) (op : Op) (data : List Byte) (first : Nat) (piece : Nat × Nat) : List Interaction :=
  subTransferLines c b piece.1 (rangeBytes c op data first piece.1 piece.2)

/-- With WIP clear at every wait, the pieces of the range are sent one after the other, and the operation answers `OK`
(R115, R117). -/
theorem PageCut.sent (h : PageCut P A R l) (hin : InSubTransfer s op data first a r o sectors k n)
    (hp : s.phase = .busy op (.command .monEntry .frame)) (hP : s.cfg.pageSize = P) (ha : a.toNat = A) (hr : r.toNat = R)
    (hk : k.toNat + l.length = sectors.toNat) (hdr : s.draws = xs ++ rest) (hx : ∀ x ∈ xs, Receives [b] x)
    (hlen : xs.length = 5 * l.length) (hb : wip b = false) :
    ∃ v, Steps (5 * l.length) s (v.respond .ok)
      ∧ Polled s v (l.flatMap (pieceLines s.cfg b op data first)) rest := by
  induction h generalizing s xs a r o k n with
  | @last A R pos inPage =>
    obtain ⟨v, hv, hst, hpoll⟩ := hin.steps hp hdr hx hlen.ge hb
    have hn : n.toNat = R := by rw [hin.length, hP, ha, hr, (PageCut.last pos inPage).transferSize_eq]
    rw [ha, hn, List.drop_eq_nil_of_le (i := 5) hlen.le] at hpoll
    exact ⟨v, hst _ (hv.next_last hk), by simpa [pieceLines] using hpoll⟩
  | @page A R m l pos more fills cut ih =>
    rw [List.length_cons] at hk hlen
    obtain ⟨v, hv, hst, hpoll⟩ := hin.steps hp hdr hx (by omega) hb
    have hn : n.toNat = m := by rw [hin.length, hP, ha, hr, (PageCut.page pos more fills cut).transferSize_eq]
    have hl : 1 ≤ l.length := by cases cut <;> exact Nat.le_add_left ..
    obtain ⟨w, n', hnext, hin'⟩ := hv.next_more (by omega)
    have hfits := hin.fits
    have hsec := sectors.isLt
    obtain ⟨t, ht, hpoll'⟩ := ih hin' rfl ((congrArg Config.pageSize hpoll.cfg).trans hP) (by bv_omega) (by bv_omega)
      (by bv_omega) hpoll.draws (fun x hm => hx x (List.mem_of_mem_drop hm)) (by rw [List.length_drop]; omega)
    have hall := Polled.trans (u := { v with work := w }.goto op (.command .monEntry .frame)) { hpoll with } hpoll'
    rw [State.goto_cfg, hpoll.cfg, ha, hn] at hall
    exact ⟨t, by rw [List.length_cons, Nat.mul_succ, Nat.add_comm]; exact (hst _ hnext).trans ht, hall⟩

/-! ### `WRITE` and `ERASE` -/

/-- The first sub-transfer of a range (R90, R115). -/
theorem writeRange_inSubTransfer (hd : op ≠ .erase → s.latch.data = some data)
    (hfits : addr.toNat + size.toNat < 2 ^ 32) :
    InSubTransfer (s.writeRange op addr size) op data addr.toNat addr size 0
      (BitVec.ofNat 32 (sectorCount s.cfg.pageSize addr.toNat size.toNat)) 0
      (BitVec.ofNat 32 (transferSize s.cfg.pageSize addr.toNat size.toNat)) :=
  ⟨rfl, rfl, rfl, rfl, rfl, rfl, hd, rfl,
    Nat.mod_eq_of_lt (Nat.lt_of_le_of_lt (transferSize_le ..) size.isLt), hfits⟩

/-- A request that is accepted as `u` and sends a range, with WIP clear at every wait (R115, R117). -/
theorem range_concludes (h : Ready s) (he : exec i s = .next (u.writeRange op addr size).runOperation) (ha : Accepted s u)
    (htr : u.transcript = s.transcript) (hud : u.draws = s.draws) (hz : size ≠ 0)
    (ho : outOfRange s.cfg addr size = false) (hd : op ≠ .erase → u.latch.data = some data) (hdr : s.draws = xs ++ rest)
    (hx : ∀ x ∈ xs, Receives [b] x) (hb : wip b = false)
    (hlen : xs.length = 5 * sectorCount s.cfg.pageSize addr.toNat size.toNat) :
    ∃ t, Concludes i s t { code := some .ok } s.initialized
      ((subTransfers s.cfg.pageSize addr.toNat size.toNat).flatMap (pieceLines s.cfg b op data addr.toNat)) rest := by
  obtain ⟨hsize, hcap⟩ := range_le_capacity h.legal hz ho
  have hcap' := (capacity_bounds h.legal).2
  have hsec := sectorCount_le (P := s.cfg.pageSize) addr.toNat size.toNat
  have hcut := subTransfers_pageCut (P := s.cfg.pageSize) (a := addr.toNat) (configLegal_spec h.legal).2.2.1 hsize
  have hin := writeRange_inSubTransfer (s := u) (op := op) (data := data) (addr := addr) (size := size) hd (by omega)
  have hcount : (0 : Word).toNat + (subTransfers s.cfg.pageSize addr.toNat size.toNat).length
      = (BitVec.ofNat 32 (sectorCount u.cfg.pageSize addr.toNat size.toNat)).toNat := by
    rw [subTransfers_length, ha.cfg, BitVec.toNat_ofNat]
    exact (Nat.zero_add _).trans (Nat.mod_eq_of_lt (by omega)).symm
  obtain ⟨v, hst, hpoll⟩ := hcut.sent hin rfl (congrArg Config.pageSize ha.cfg) rfl rfl hcount (hud.trans hdr) hx
    (by rw [subTransfers_length, hlen]) hb
  rw [show (u.writeRange op addr size).cfg = s.cfg from ha.cfg] at hpoll
  rw [subTransfers_length] at hst
  exact ⟨_, .of_respond h he { ha with } htr (by rw [operationFuel]; omega) hst hpoll⟩

/-- Settles O40: the accepted `WRITE` sends the pieces of its range, each with its bytes of the data. -/
theorem writeSendsEveryPageInOrder : Obligations.WriteSendsEveryPageInOrder := by
  intro s addr size data xs rest b h hini hz ho hlen hdr hx hb hxs
  have ho : outOfRange s.cfg addr size = false := decide_eq_false (Nat.not_lt.2 ho)
  obtain ⟨t, hc⟩ := range_concludes (u := writeAccepted s addr size data) (op := .write) (data := data) h
    (exec_write_eq (.inl h.idle) ⟨h.legal, h.healthy, hini, hz, ho, hlen⟩) {} rfl rfl hz ho (fun _ => rfl) hdr hx hb hxs
  exact ⟨t, hc.exec, hc.responded, hc.initialized.trans hini, hc.draws, hc.transcript⟩

/-- An `ERASE` that passes its checks, computed (R117). -/
theorem exec_erase_eq (h : Ready s) (hc : checkErase s addr size = none) :
    exec (.erase addr size) s
      = .next (((s.accept .erase).latchRange addr size).writeRange .erase addr size).runOperation := by
  have hc : checkErase ((s.accept .erase).latchRange addr size) addr size = none := hc
  rw [exec, execErase, h.beginRequest_eq]
  simp only [hc]

/-- Settles O41: the accepted `ERASE` sends the pieces of its range, each with the erase value as every byte. -/
theorem eraseSendsTheEraseValue : Obligations.EraseSendsTheEraseValue := by
  intro s addr size xs rest b h hini hz hle ho hdr hx hb hxs
  have ho : outOfRange s.cfg addr size = false := decide_eq_false (Nat.not_lt.2 ho)
  obtain ⟨t, hc⟩ := range_concludes (u := (s.accept .erase).latchRange addr size) (op := .erase) (data := []) h
    (exec_erase_eq h (checkErase_none.2 ⟨hini, hz, hle, ho⟩)) {} rfl rfl hz ho (absurd rfl) hdr hx hb hxs
  exact ⟨t, hc.exec, hc.responded, hc.initialized.trans hini, hc.draws, hc.transcript⟩

end Sys2Proof.Machine
end

section
/-! Proofs about reset and hazards (70_reset_and_hazards.md): a frame's answer and the data phase (O13), and what a reset
does to the block (O22) and leaves at the device (O23). -/

namespace Sys2Proof.Machine

variable {s : State} {i : Instr} {call : Call} {rest : List HostMove}

/-! ### A frame and its data phase -/

/-- A data phase is a command's (R60). -/
theorem command_of_dataCall (hd : dataCall i = some call) : isRequest i = false := by
  cases i with
  | init | deinit | isInit | write | read | erase | setProt | reservedOp7 => cases hd
  | _ => rfl

theorem siteFailed_quiet (s : State) (site : Site) : Quiet (siteFailed s site) := by
  cases site with
  | bare i => exact .inl rfl
  | _ => exact respondWith_quiet s _

/-- Settles O13: the frame is a transport call, so its answer leads to the data phase of the same command or ends the
operation. -/
theorem dataPhaseFollowsItsFrame : Obligations.DataPhaseFollowsItsFrame := by
  intro s t op site i d hp hi hd ht
  obtain ⟨-, f, hf⟩ := frameCall_start s.cfg (command_of_dataCall hd) hd
  have hcall : pointCall s op (.command site .frame) = some (.transmit f .start) := by simp [pointCall, hi, hf]
  refine ⟨fun hx => ?_, fun hx => ?_⟩
  · obtain rfl := Option.some.inj (ht.symm.trans (interact_frame_ok hp hi hf (by rw [hd]; rfl) hx))
    have hi' : siteCommand ((s.perform (.transmit f .start)).goto op (.command site .data)) op site = some i :=
      (siteCommand_congr rfl rfl rfl _ _).trans hi
    exact ⟨rfl, by simp [pointCall, hi', hd]⟩
  · obtain rfl := Option.some.inj (ht.symm.trans (interact_command_error hp hcall nofun hx))
    exact (siteFailed_quiet _ site).not_busy

/-! ### Reset -/

/-- A reset comes in whatever phase (R136, R139). -/
theorem step_reset (hl : configLegal s.cfg = true) (hh : s.host = .reset :: rest) :
    step s = .next (State.hostReset { s with host := rest }) := by
  unfold step
  rw [if_pos hl, hh]

/-- Settles O22: the step is `hostReset`, and that writes each register. -/
theorem resetClearsTheBlock : Obligations.ResetClearsTheBlock := fun _ _ hl hh =>
  ⟨_, step_reset hl hh, rfl, rfl, rfl, rfl, rfl, rfl, rfl, rfl, rfl⟩

/-- A reset moves the chip-select line at the device alone, besides the time that passes (R140). -/
theorem hostReset_sameCell (s : State) : SameCell (s.dev.passTime s.cfg s.draw) s.hostReset.dev := by
  unfold State.hostReset
  dsimp only
  split <;> exact {}

/-- Settles O23: to array, cycle and status a reset is the time that passes, and that ends no cycle unless it is drawn. -/
theorem resetLeavesTheDevice : Obligations.ResetLeavesTheDevice := by
  intro s rest hl hh
  have h : SameCell (s.dev.passTime s.cfg s.draw) (State.hostReset { s with host := rest }).dev :=
    hostReset_sameCell { s with host := rest }
  refine ⟨_, step_reset hl hh, h.mem, h.cycle, h.wel, h.bp, h.wpen, fun hx => ?_⟩
  rw [Device.passTime_of_running (.inr hx)] at h
  exact ⟨h.mem, h.cycle, h.wel⟩

end Sys2Proof.Machine
end
